-- ==== Sys2Proof/Word.lean ====
section
/-! DEFINITION. The word types of the core (00_scope.md R6: XLEN = 8, PC_W = I_W = STACK_W = ILEN = 16) and the
index types of its fixed arrays. Every quantity is unsigned (00_scope.md section 5.1). -/

namespace Sys2Proof

/-- A `u8`: a general register, a timer, a memory byte (10_state.md R20, R30, R32). -/
abbrev Byte := BitVec 8

/-- A `u16`: the program counter, the index register, a stack entry, an instruction word
(10_state.md R23, R25, R27; 30_encoding.md R90). -/
abbrev Word := BitVec 16

/-- The number of a general register, 0 to 15 (10_state.md R20). -/
abbrev RegIx := Fin 16

/-- The number of a key, 0 to 15 (10_state.md R36). -/
abbrev KeyIx := Fin 16

/-- A framebuffer row, 0 to 31 (10_state.md R34). -/
abbrev Row := Fin 32

/-- A framebuffer column, 0 to 63 (10_state.md R34). -/
abbrev Col := Fin 64

/-- `VF`, the flag register `V[15]` (10_state.md R22). -/
abbrev VF : RegIx := 15

end Sys2Proof
end

