-- ==== Sys2Proof/Syntax.lean ====
section
/-! DEFINITION. The instructions: one constructor per row of spec/opcode_table.json (30_encoding.md R96, 35 rows, and the
default row `unassigned` of 40_step_cycle.md R132), in the table's order. Operands are named as the spec names the
fields (R91): `x`, `y` register numbers, `kk` an 8-bit immediate, `n` a 4-bit immediate, `addr` a 12-bit address. -/

namespace Sys2Proof

/-- An instruction with its operand fields. The shifts keep their `y` field although the core ignores it (R99), and
`unassigned` keeps its word, so that no bit of a word is lost by decoding. -/
inductive Instr where
  | clearDisplay
  | ret
  | systemCall (addr : BitVec 12)
  | jump (addr : BitVec 12)
  | call (addr : BitVec 12)
  | skipIfEqualImmediate (x : RegIx) (kk : Byte)
  | skipIfNotEqualImmediate (x : RegIx) (kk : Byte)
  | skipIfRegistersEqual (x y : RegIx)
  | loadImmediate (x : RegIx) (kk : Byte)
  | addImmediate (x : RegIx) (kk : Byte)
  | registerMove (x y : RegIx)
  | registerOr (x y : RegIx)
  | registerAnd (x y : RegIx)
  | registerXor (x y : RegIx)
  | registerAdd (x y : RegIx)
  | registerSubtract (x y : RegIx)
  | shiftRight (x y : RegIx)
  | registerSubtractReverse (x y : RegIx)
  | shiftLeft (x y : RegIx)
  | skipIfRegistersNotEqual (x y : RegIx)
  | loadIndex (addr : BitVec 12)
  | jumpWithOffset (addr : BitVec 12)
  | randomAnd (x : RegIx) (kk : Byte)
  | draw (x y : RegIx) (n : BitVec 4)
  | skipIfKeyPressed (x : RegIx)
  | skipIfKeyNotPressed (x : RegIx)
  | readDelayTimer (x : RegIx)
  | waitForKey (x : RegIx)
  | setDelayTimer (x : RegIx)
  | setSoundTimer (x : RegIx)
  | addToIndex (x : RegIx)
  | loadGlyphAddress (x : RegIx)
  | storeBcd (x : RegIx)
  | registerDump (x : RegIx)
  | registerLoad (x : RegIx)
  | unassigned (w : Word)
deriving DecidableEq, Repr

end Sys2Proof
end

