-- ==== Sys2Proof/WellFormed.lean ====
section
/-! DEFINITION. Which instruction terms stand for an instruction of the machine. The types bound every operand already;
two constructors need a check: `systemCall` is not the word of clear-display or return (30_encoding.md R97(a), R104), and
`unassigned` holds only a word of the unassigned spaces (R98). -/

namespace Sys2Proof

/-- The unassigned words, space by space as 30_encoding.md R98 lists them: families 5 and 9 with `n` not 0, family 8 with
`n` in 8, 9, A, B, C, D, F, families E and F with any other low byte than the listed ones. Written on the word's number
and independent of the decoder. -/
def isUnassigned (w : Word) : Bool :=
  let op := w.toNat / 4096
  let n := w.toNat % 16
  let kk := w.toNat % 256
  (op == 0x5 && n != 0) ||
  (op == 0x8 && [0x8, 0x9, 0xA, 0xB, 0xC, 0xD, 0xF].contains n) ||
  (op == 0x9 && n != 0) ||
  (op == 0xE && !([0x9E, 0xA1].contains kk)) ||
  (op == 0xF && !([0x07, 0x0A, 0x15, 0x18, 0x1E, 0x29, 0x33, 0x55, 0x65].contains kk))

/-- An instruction term that some word decodes to. -/
def Instr.wellFormed : Instr → Bool
  | .systemCall addr => addr != 0x0E0 && addr != 0x0EE
  | .unassigned w => isUnassigned w
  | .clearDisplay | .ret | .jump _ | .call _ => true
  | .skipIfEqualImmediate _ _ | .skipIfNotEqualImmediate _ _ | .skipIfRegistersEqual _ _ => true
  | .loadImmediate _ _ | .addImmediate _ _ => true
  | .registerMove _ _ | .registerOr _ _ | .registerAnd _ _ | .registerXor _ _ => true
  | .registerAdd _ _ | .registerSubtract _ _ | .shiftRight _ _ => true
  | .registerSubtractReverse _ _ | .shiftLeft _ _ | .skipIfRegistersNotEqual _ _ => true
  | .loadIndex _ | .jumpWithOffset _ | .randomAnd _ _ | .draw _ _ _ => true
  | .skipIfKeyPressed _ | .skipIfKeyNotPressed _ | .readDelayTimer _ | .waitForKey _ => true
  | .setDelayTimer _ | .setSoundTimer _ | .addToIndex _ | .loadGlyphAddress _ => true
  | .storeBcd _ | .registerDump _ | .registerLoad _ => true

end Sys2Proof
end

