-- ==== Sys2Proof/Decode.lean ====
section
/-! DEFINITION. Decoding and encoding (30_encoding.md). The decoder is total on words (40_step_cycle.md R122) and follows
the family and sub-selector structure of R94 with the strict matching of R97; the opcode map of R96 stands beside it as
data. After the decoder, the encoder, written from the formats of R92 and the words of R104. -/

namespace Sys2Proof

/-! ## Fields (R91) -/

/-- `op = w[15:12]`, the primary opcode. -/
def fieldOp (w : Word) : BitVec 4 := w.extractLsb' 12 4

/-- `x = w[11:8]`, a register number. -/
def fieldX (w : Word) : RegIx := (w.extractLsb' 8 4).toFin

/-- `y = w[7:4]`, a register number. -/
def fieldY (w : Word) : RegIx := (w.extractLsb' 4 4).toFin

/-- `n = w[3:0]`, a 4-bit immediate or sub-selector. -/
def fieldN (w : Word) : BitVec 4 := w.extractLsb' 0 4

/-- `kk = w[7:0]`, an 8-bit immediate or sub-selector. -/
def fieldKk (w : Word) : Byte := w.extractLsb' 0 8

/-- `addr = w[11:0]`, a 12-bit address. -/
def fieldAddr (w : Word) : BitVec 12 := w.extractLsb' 0 12

/-- The instruction word of two bytes, the byte at the lower address being the high one (20_memory.md R67). -/
def wordOfBytes (hi lo : Byte) : Word := hi ++ lo

/-- The byte of a word that lies at the lower address. -/
def highByte (w : Word) : Byte := w.extractLsb' 8 8

/-- The byte of a word that lies at the higher address. -/
def lowByte (w : Word) : Byte := w.extractLsb' 0 8

/-! ## Decoding (R94, R97, R98) -/

/-- Family 0: the whole word selects clear-display and return; every other word is the system-call form (R97(a)). -/
def decodeFamily0 (w : Word) : Instr :=
  if w = 0x00E0#16 then .clearDisplay
  else if w = 0x00EE#16 then .ret
  else .systemCall (fieldAddr w)

/-- Family 8: the 4-bit sub-selector `n` (R94, R97(c)). -/
def decodeFamily8 (w : Word) : Instr :=
  match (fieldN w).toNat with
  | 0x0 => .registerMove (fieldX w) (fieldY w)
  | 0x1 => .registerOr (fieldX w) (fieldY w)
  | 0x2 => .registerAnd (fieldX w) (fieldY w)
  | 0x3 => .registerXor (fieldX w) (fieldY w)
  | 0x4 => .registerAdd (fieldX w) (fieldY w)
  | 0x5 => .registerSubtract (fieldX w) (fieldY w)
  | 0x6 => .shiftRight (fieldX w) (fieldY w)
  | 0x7 => .registerSubtractReverse (fieldX w) (fieldY w)
  | 0xE => .shiftLeft (fieldX w) (fieldY w)
  | _ => .unassigned w

/-- Family E: the 8-bit sub-selector `kk` (R94, R97(c)). -/
def decodeFamilyE (w : Word) : Instr :=
  match (fieldKk w).toNat with
  | 0x9E => .skipIfKeyPressed (fieldX w)
  | 0xA1 => .skipIfKeyNotPressed (fieldX w)
  | _ => .unassigned w

/-- Family F: the 8-bit sub-selector `kk` (R94, R97(c)). -/
def decodeFamilyF (w : Word) : Instr :=
  match (fieldKk w).toNat with
  | 0x07 => .readDelayTimer (fieldX w)
  | 0x0A => .waitForKey (fieldX w)
  | 0x15 => .setDelayTimer (fieldX w)
  | 0x18 => .setSoundTimer (fieldX w)
  | 0x1E => .addToIndex (fieldX w)
  | 0x29 => .loadGlyphAddress (fieldX w)
  | 0x33 => .storeBcd (fieldX w)
  | 0x55 => .registerDump (fieldX w)
  | 0x65 => .registerLoad (fieldX w)
  | _ => .unassigned w

/-- The instruction of a word: total, by the top 4 bits first (40_step_cycle.md R122, 30_encoding.md R94). The last line
is never reached, a 4-bit field having 16 values. -/
def decode (w : Word) : Instr :=
  match (fieldOp w).toNat with
  | 0x0 => decodeFamily0 w
  | 0x1 => .jump (fieldAddr w)
  | 0x2 => .call (fieldAddr w)
  | 0x3 => .skipIfEqualImmediate (fieldX w) (fieldKk w)
  | 0x4 => .skipIfNotEqualImmediate (fieldX w) (fieldKk w)
  | 0x5 => if fieldN w = 0#4 then .skipIfRegistersEqual (fieldX w) (fieldY w) else .unassigned w
  | 0x6 => .loadImmediate (fieldX w) (fieldKk w)
  | 0x7 => .addImmediate (fieldX w) (fieldKk w)
  | 0x8 => decodeFamily8 w
  | 0x9 => if fieldN w = 0#4 then .skipIfRegistersNotEqual (fieldX w) (fieldY w) else .unassigned w
  | 0xA => .loadIndex (fieldAddr w)
  | 0xB => .jumpWithOffset (fieldAddr w)
  | 0xC => .randomAnd (fieldX w) (fieldKk w)
  | 0xD => .draw (fieldX w) (fieldY w) (fieldN w)
  | 0xE => decodeFamilyE w
  | 0xF => decodeFamilyF w
  | _ => .unassigned w

/-- Why a byte sequence holds no instruction. No word is rejected (R98); the one reason is a sequence too short. -/
inductive DecodeReject where
  /-- Fewer than the two bytes of an instruction word (R90). -/
  | tooFewBytes (available : Nat)
deriving DecidableEq, Repr

/-- Decode the instruction at the head of a byte sequence, and give the bytes after it: two bytes, high byte first
(R90). -/
def decodeBytes : List Byte → Except DecodeReject (Instr × List Byte)
  | hi :: lo :: rest => .ok (decode (wordOfBytes hi lo), rest)
  | [_] => .error (.tooFewBytes 1)
  | [] => .error (.tooFewBytes 0)

/-! ## The opcode map as data (R96) -/

/-- One row of the opcode map: a word `w` selects it when `w &&& mask = pattern`. -/
structure OpcodeRow where
  mnemonic : String
  pattern : Word
  mask : Word
deriving DecidableEq, Repr

/-- Rows 1 to 10 of R96. -/
def opcodeRows1 : List OpcodeRow :=
  [⟨"clear-display", 0x00E0, 0xFFFF⟩, ⟨"return", 0x00EE, 0xFFFF⟩, ⟨"system-call", 0x0000, 0xF000⟩,
   ⟨"jump", 0x1000, 0xF000⟩, ⟨"call", 0x2000, 0xF000⟩, ⟨"skip-if-equal-immediate", 0x3000, 0xF000⟩,
   ⟨"skip-if-not-equal-immediate", 0x4000, 0xF000⟩, ⟨"skip-if-registers-equal", 0x5000, 0xF00F⟩,
   ⟨"load-immediate", 0x6000, 0xF000⟩, ⟨"add-immediate", 0x7000, 0xF000⟩]

/-- Rows 11 to 24 of R96. -/
def opcodeRows2 : List OpcodeRow :=
  [⟨"register-move", 0x8000, 0xF00F⟩, ⟨"register-or", 0x8001, 0xF00F⟩, ⟨"register-and", 0x8002, 0xF00F⟩,
   ⟨"register-xor", 0x8003, 0xF00F⟩, ⟨"register-add", 0x8004, 0xF00F⟩, ⟨"register-subtract", 0x8005, 0xF00F⟩,
   ⟨"shift-right", 0x8006, 0xF00F⟩, ⟨"register-subtract-reverse", 0x8007, 0xF00F⟩,
   ⟨"shift-left", 0x800E, 0xF00F⟩, ⟨"skip-if-registers-not-equal", 0x9000, 0xF00F⟩,
   ⟨"load-index", 0xA000, 0xF000⟩, ⟨"jump-with-offset", 0xB000, 0xF000⟩, ⟨"random-and", 0xC000, 0xF000⟩,
   ⟨"draw", 0xD000, 0xF000⟩]

/-- Rows 25 to 35 of R96 and the default row of spec/opcode_table.json (40_step_cycle.md R132). -/
def opcodeRows3 : List OpcodeRow :=
  [⟨"skip-if-key-pressed", 0xE09E, 0xF0FF⟩, ⟨"skip-if-key-not-pressed", 0xE0A1, 0xF0FF⟩,
   ⟨"read-delay-timer", 0xF007, 0xF0FF⟩, ⟨"wait-for-key", 0xF00A, 0xF0FF⟩, ⟨"set-delay-timer", 0xF015, 0xF0FF⟩,
   ⟨"set-sound-timer", 0xF018, 0xF0FF⟩, ⟨"add-to-index", 0xF01E, 0xF0FF⟩,
   ⟨"load-glyph-address", 0xF029, 0xF0FF⟩, ⟨"store-BCD", 0xF033, 0xF0FF⟩, ⟨"register-dump", 0xF055, 0xF0FF⟩,
   ⟨"register-load", 0xF065, 0xF0FF⟩, ⟨"unassigned", 0x0000, 0x0000⟩]

/-- The opcode map in priority order, the default row last. -/
def opcodeTable : List OpcodeRow := opcodeRows1 ++ opcodeRows2 ++ opcodeRows3

/-- The first row, in priority order, that a word selects (R97). -/
def opcodeRowOf (w : Word) : Option OpcodeRow :=
  opcodeTable.find? fun r => (w &&& r.mask) == r.pattern

/-- The table's mnemonic of an instruction. -/
def Instr.mnemonic : Instr → String
  | .clearDisplay => "clear-display"
  | .ret => "return"
  | .systemCall _ => "system-call"
  | .jump _ => "jump"
  | .call _ => "call"
  | .skipIfEqualImmediate _ _ => "skip-if-equal-immediate"
  | .skipIfNotEqualImmediate _ _ => "skip-if-not-equal-immediate"
  | .skipIfRegistersEqual _ _ => "skip-if-registers-equal"
  | .loadImmediate _ _ => "load-immediate"
  | .addImmediate _ _ => "add-immediate"
  | .registerMove _ _ => "register-move"
  | .registerOr _ _ => "register-or"
  | .registerAnd _ _ => "register-and"
  | .registerXor _ _ => "register-xor"
  | .registerAdd _ _ => "register-add"
  | .registerSubtract _ _ => "register-subtract"
  | .shiftRight _ _ => "shift-right"
  | .registerSubtractReverse _ _ => "register-subtract-reverse"
  | .shiftLeft _ _ => "shift-left"
  | .skipIfRegistersNotEqual _ _ => "skip-if-registers-not-equal"
  | .loadIndex _ => "load-index"
  | .jumpWithOffset _ => "jump-with-offset"
  | .randomAnd _ _ => "random-and"
  | .draw _ _ _ => "draw"
  | .skipIfKeyPressed _ => "skip-if-key-pressed"
  | .skipIfKeyNotPressed _ => "skip-if-key-not-pressed"
  | .readDelayTimer _ => "read-delay-timer"
  | .waitForKey _ => "wait-for-key"
  | .setDelayTimer _ => "set-delay-timer"
  | .setSoundTimer _ => "set-sound-timer"
  | .addToIndex _ => "add-to-index"
  | .loadGlyphAddress _ => "load-glyph-address"
  | .storeBcd _ => "store-BCD"
  | .registerDump _ => "register-dump"
  | .registerLoad _ => "register-load"
  | .unassigned _ => "unassigned"

/-! ## Encoding (R92, R104) -/

/-- Format `A`: `op` in bits 15 to 12, `addr` in bits 11 to 0. -/
def formatA (op : BitVec 4) (addr : BitVec 12) : Word := op ++ addr

/-- Formats `XK` and `X`: `op`, then `x` in bits 11 to 8, then `kk` (an operand or a sub-selector) in bits 7 to 0. -/
def formatXK (op : BitVec 4) (x : RegIx) (kk : Byte) : Word := (op ++ (BitVec.ofFin x : BitVec 4)) ++ kk

/-- Formats `XY` and `XYN`: `op`, `x`, `y`, then `n` (a sub-selector or an operand) in bits 3 to 0. -/
def formatXYN (op : BitVec 4) (x y : RegIx) (n : BitVec 4) : Word :=
  ((op ++ (BitVec.ofFin x : BitVec 4)) ++ (BitVec.ofFin y : BitVec 4)) ++ n

/-- The word of an instruction (R104). -/
def encode : Instr → Word
  | .clearDisplay => 0x00E0#16
  | .ret => 0x00EE#16
  | .systemCall addr => formatA 0x0 addr
  | .jump addr => formatA 0x1 addr
  | .call addr => formatA 0x2 addr
  | .skipIfEqualImmediate x kk => formatXK 0x3 x kk
  | .skipIfNotEqualImmediate x kk => formatXK 0x4 x kk
  | .skipIfRegistersEqual x y => formatXYN 0x5 x y 0x0
  | .loadImmediate x kk => formatXK 0x6 x kk
  | .addImmediate x kk => formatXK 0x7 x kk
  | .registerMove x y => formatXYN 0x8 x y 0x0
  | .registerOr x y => formatXYN 0x8 x y 0x1
  | .registerAnd x y => formatXYN 0x8 x y 0x2
  | .registerXor x y => formatXYN 0x8 x y 0x3
  | .registerAdd x y => formatXYN 0x8 x y 0x4
  | .registerSubtract x y => formatXYN 0x8 x y 0x5
  | .shiftRight x y => formatXYN 0x8 x y 0x6
  | .registerSubtractReverse x y => formatXYN 0x8 x y 0x7
  | .shiftLeft x y => formatXYN 0x8 x y 0xE
  | .skipIfRegistersNotEqual x y => formatXYN 0x9 x y 0x0
  | .loadIndex addr => formatA 0xA addr
  | .jumpWithOffset addr => formatA 0xB addr
  | .randomAnd x kk => formatXK 0xC x kk
  | .draw x y n => formatXYN 0xD x y n
  | .skipIfKeyPressed x => formatXK 0xE x 0x9E
  | .skipIfKeyNotPressed x => formatXK 0xE x 0xA1
  | .readDelayTimer x => formatXK 0xF x 0x07
  | .waitForKey x => formatXK 0xF x 0x0A
  | .setDelayTimer x => formatXK 0xF x 0x15
  | .setSoundTimer x => formatXK 0xF x 0x18
  | .addToIndex x => formatXK 0xF x 0x1E
  | .loadGlyphAddress x => formatXK 0xF x 0x29
  | .storeBcd x => formatXK 0xF x 0x33
  | .registerDump x => formatXK 0xF x 0x55
  | .registerLoad x => formatXK 0xF x 0x65
  | .unassigned w => w

/-- The two bytes of an instruction as memory holds them, high byte first (R90). -/
def encodeBytes (i : Instr) : List Byte := [highByte (encode i), lowByte (encode i)]

/-! ## The host's numbering of instruction bits -/

/-- The instruction word whose bits are `w`, of which only the lowest `nbits` are given and every bit above is 0. With
one 16-bit word per instruction, bit 0 of the table's numbering is bit 0 of the word. -/
def tableWord (nbits w : Nat) : Word := BitVec.ofNat 16 (w % 2 ^ nbits)

/-- The instruction the decoder reads from an instruction whose bits are `w`, numbered as spec/opcode_table.json numbers
them: the word laid out in memory's order and given to the byte decoder. -/
def decodeTableWord (nbits w : Nat) : Option Instr :=
  match decodeBytes [highByte (tableWord nbits w), lowByte (tableWord nbits w)] with
  | .ok (i, _) => some i
  | .error _ => none

end Sys2Proof
end

