-- ==== Sys2Proof/Config.lean ====
section
/-! DEFINITION. What is fixed for the machine: the parameters of 00_scope.md R6 that the definitions use, and the one
free value of the model, the random byte (10_state.md R38). -/

namespace Sys2Proof

/-- `MEM_SIZE`: bytes of memory, addresses 0 to 4095 (00_scope.md R6). -/
abbrev Config.memSize : Nat := 4096

/-- The highest address, 4095 (20_memory.md R60). -/
abbrev Config.lastAddr : Nat := 4095

/-- `PROG_BASE`: reset value of `pc` and the address `load()` writes from (00_scope.md R6). -/
abbrev Config.progBase : Nat := 0x200

/-- `ROM_MAX`: the largest program `load()` accepts (00_scope.md R6). -/
abbrev Config.romMax : Nat := 3584

/-- `GLYPH_STRIDE`: bytes per glyph (00_scope.md R6). -/
abbrev Config.glyphStride : Nat := 5

/-- `GLYPH_BYTES`: size of the glyph table (00_scope.md R6). -/
abbrev Config.glyphBytes : Nat := 80

/-- `STACK_DEPTH`: entries of the call stack (00_scope.md R6). -/
abbrev Config.stackDepth : Nat := 16

/-- `rnd`, the free byte that random-and takes (10_state.md R38, 43_register_alu.md R183): nothing constrains the value,
at any draw. The argument is the number of draws made before (`State.draws`), so that two draws need not agree.
DESIGN CHOICE (log entry 1), safe. -/
opaque Config.freeByte : Nat → Byte

end Sys2Proof
end

