-- ==== Sys2Proof/Machine/Glyphs.lean ====
section
/-! DEFINITION. The glyph table: the parameter `GLYPH_TABLE` (00_scope.md R8) as a type, and the default value that
20_memory.md R66 offers for it. Only what `reset()` writes, and what an unlisted address below 80 reads as, depend on
the default; `hostReset` takes any table. -/

namespace Sys2Proof.Machine

/-- A glyph table: 16 glyphs of 5 bytes (00_scope.md R6, GLYPH_COUNT and GLYPH_STRIDE). -/
abbrev GlyphTable := Vector (Vector Byte 5) 16

/-- The 80 bytes of a glyph table in address order: glyph `d` at addresses `5*d` to `5*d + 4` (R66). -/
def GlyphTable.bytes (g : GlyphTable) : List Byte := g.toList.flatMap Vector.toList

/-- Glyphs 0 to 7 of the default table (R66). -/
def defaultGlyphsLow : Vector (Vector Byte 5) 8 :=
  #v[#v[0xF0, 0x90, 0x90, 0x90, 0xF0], #v[0x20, 0x60, 0x20, 0x20, 0x70],
     #v[0xF0, 0x10, 0xF0, 0x80, 0xF0], #v[0xF0, 0x10, 0xF0, 0x10, 0xF0],
     #v[0x90, 0x90, 0xF0, 0x10, 0x10], #v[0xF0, 0x80, 0xF0, 0x10, 0xF0],
     #v[0xF0, 0x80, 0xF0, 0x90, 0xF0], #v[0xF0, 0x10, 0x20, 0x40, 0x40]]

/-- Glyphs 8 to F of the default table (R66). -/
def defaultGlyphsHigh : Vector (Vector Byte 5) 8 :=
  #v[#v[0xF0, 0x90, 0xF0, 0x90, 0xF0], #v[0xF0, 0x90, 0xF0, 0x10, 0xF0],
     #v[0xF0, 0x90, 0xF0, 0x90, 0x90], #v[0xE0, 0x90, 0xE0, 0x90, 0xE0],
     #v[0xF0, 0x80, 0x80, 0x80, 0xF0], #v[0xE0, 0x90, 0x90, 0x90, 0xE0],
     #v[0xF0, 0x80, 0xF0, 0x80, 0xF0], #v[0xF0, 0x80, 0xF0, 0x80, 0x80]]

/-- The default glyph table of R66. PRESUMED (log entry 7), unsafe for a claim about what a glyph looks like. -/
def defaultGlyphTable : GlyphTable := defaultGlyphsLow ++ defaultGlyphsHigh

end Sys2Proof.Machine
end

