-- ==== Sys2Proof/Machine/State.lean ====
section
/-! DEFINITION. The state of the core (10_state.md, section 1), as plain data; the causes of a fault (60_exceptions.md
R240); the reasons of a refusal; and the state right after reset (10_state.md R47, R48). -/

namespace Sys2Proof.Machine

/-- Memory, as the list of the cells that differ from what an unlisted address reads as (`Memory.unlisted`), by rising
address: 4096 bytes, addresses 0 to 4095 (10_state.md R32, 20_memory.md R60). -/
abbrev Memory := List Host.Cell

/-- The framebuffer: 32 rows of 64 one-bit cells, `true` = on (10_state.md R34). -/
abbrev Framebuffer := Vector (Vector Bool 64) 32

/-- The keypad latch: 16 keys, `true` = pressed (10_state.md R36). -/
abbrev Keypad := Vector Bool 16

/-- Everything the spec gives the core to hold, and one counter of the model's own (`draws`). -/
structure State where
  /-- `V[0]` to `V[15]`, the general registers; `V[15]` is VF (R20, R22). -/
  v : Vector Byte 16
  /-- `pc`, the program counter (R23). -/
  pc : Word
  /-- `I`, the index register (R25). -/
  index : Word
  /-- `STACK[0]` to `STACK[15]`, the call stack (R27). -/
  stack : Vector Word 16
  /-- `SP`, the number of stack entries in use, 0 to 16 (R28). -/
  sp : Fin 17
  /-- `DT`, the delay timer (R30). -/
  dt : Byte
  /-- `ST`, the sound timer (R30). -/
  st : Byte
  /-- `MEM[0]` to `MEM[4095]` (R32). -/
  mem : Memory
  /-- `FB[0..31][0..63]`, the framebuffer (R34). -/
  fb : Framebuffer
  /-- `KEYS[0]` to `KEYS[15]`, the keypad latch, which only the host writes (R36). -/
  keys : Keypad
  /-- The model's own: how many random bytes have been drawn, which picks the next free byte (log entry 1). -/
  draws : Nat
deriving DecidableEq, Repr

/-- The faults of a step (R240). A fault leaves the state as it was (R246): the host goes on, if it does, from the state
it had, which is why no state is carried here. -/
inductive Fault where
  /-- Raised by the fetch of any step, by draw, store-BCD, register-dump and register-load, when an address above 4095
  would be used; `addr` is the lowest such address (R241, R242). The spec's own fault: neither safe nor unsafe. -/
  | outOfBounds (addr : Nat)
  /-- Raised by call when `SP` = 16; `pc` is the address of the call (R243). The spec's own fault. -/
  | stackOverflow (pc : Word)
  /-- Raised by return when `SP` = 0; `pc` is the address of the return (R244). The spec's own fault. -/
  | stackUnderflow (pc : Word)
  /-- Raised by the two key skips when `V[x]` is above 15; `key` is `V[x]` (R245). The spec's own fault (its decision
  D9). -/
  | keyIndexOutOfRange (key : Byte)
deriving DecidableEq, Repr

/-- The reasons for which the model gives an instruction no meaning. -/
inductive Refusal where
  /-- Raised by `exec` for an instruction that has no meaning yet; no arm does so. Safe. -/
  | notModelled (mnemonic : String)
deriving DecidableEq, Repr

/-- The state right after reset (R47): registers, `I`, stack, `SP` and timers 0, `pc` at `0x200`, memory as an unlisted
address reads (the glyph table at 0 to 79). What reset does not write, and the spec leaves open at power-on, has the
values of log entries 4 (keypad), 5 (framebuffer) and 6 (memory 80 to 4095); `draws` has that of entry 2. -/
def State.reset : State where
  v := Vector.replicate 16 0
  pc := BitVec.ofNat 16 Config.progBase
  index := 0
  stack := Vector.replicate 16 0
  sp := 0
  dt := 0
  st := 0
  mem := []
  fb := Vector.replicate 32 (Vector.replicate 64 false)
  keys := Vector.replicate 16 false
  draws := 0

end Sys2Proof.Machine
end

