-- ==== Sys2Proof/Machine/Ops.lean ====
section
/-! DEFINITION. The named operations over memory, registers, program counter, stack, timers and framebuffer that the
meanings are written with, the fetch, and raising a fault. -/

namespace Sys2Proof.Machine

/-- The outcome of an instruction or a step. -/
abbrev Result := Host.Outcome State Fault Refusal

/-! ## Memory (20_memory.md) -/

/-- What an address reads as that memory does not list: the glyph table's byte below 80 (R66, log entry 7), and 0 from 80
on, which the spec leaves open (10_state.md R48, parameter `MEM_INIT`; log entry 6, DESIGN CHOICE, unsafe). -/
def Memory.unlisted (a : Nat) : Byte := (GlyphTable.bytes defaultGlyphTable).getD a 0

/-- The listed byte of an address, if there is one. -/
def Memory.lookup (a : Nat) : Memory → Option Byte
  | [] => none
  | (b, u) :: m => if a = b then some u else Memory.lookup a m

/-- `MEM[a]` (R60). -/
def Memory.read (m : Memory) (a : Nat) : Byte := (Memory.lookup a m).getD (Memory.unlisted a)

/-- List the byte `u` at address `a`, in its place by rising address. -/
def Memory.insert (a : Nat) (u : Byte) : Memory → Memory
  | [] => [(a, u)]
  | (b, t) :: m =>
    if a < b then (a, u) :: (b, t) :: m
    else if a = b then (a, u) :: m
    else (b, t) :: Memory.insert a u m

/-- No longer list address `a`. -/
def Memory.erase (a : Nat) (m : Memory) : Memory := m.filter fun c => c.1 != a

/-- `MEM[a] <- u` (R73: the one byte and nothing else), keeping the canonical form. -/
def Memory.write (m : Memory) (a : Nat) (u : Byte) : Memory :=
  if u = Memory.unlisted a then Memory.erase a m else Memory.insert a u m

/-- Whether the addresses of a memory's cells rise strictly, all of them from `low` on. -/
def Memory.rising (low : Nat) : Memory → Bool
  | [] => true
  | (a, _) :: m => decide (low ≤ a) && Memory.rising (a + 1) m

/-- The canonical form: addresses strictly rising, each below 4096 (R60), and no byte that its address would read as
anyway. -/
def Memory.wf (m : Memory) : Bool :=
  Memory.rising 0 m && m.all fun c => decide (c.1 < Config.memSize) && c.2 != Memory.unlisted c.1

/-- The `n` bytes from address `a` on, in ascending order (R69). -/
def Memory.readBytes (m : Memory) : (a n : Nat) → List Byte
  | _, 0 => []
  | a, n + 1 => m.read a :: Memory.readBytes m (a + 1) n

/-- Write bytes from address `a` on, in ascending order (R69). -/
def Memory.writeBytes (m : Memory) : (a : Nat) → List Byte → Memory
  | _, [] => m
  | a, u :: us => Memory.writeBytes (m.write a u) (a + 1) us

/-! ## Updates of the state, one field each -/

/-- `V[x]`. No register is hard-wired (10_state.md R20). -/
def State.readV (s : State) (x : RegIx) : Byte := s.v[x]

/-- `V[x] <- b`. -/
def State.writeV (s : State) (x : RegIx) (b : Byte) : State := { s with v := s.v.set x b }

/-- All sixteen registers at once. -/
def State.setRegs (s : State) (v : Vector Byte 16) : State := { s with v := v }

/-- `pc <- p`. -/
def State.setPc (s : State) (p : Word) : State := { s with pc := p }

/-- `I <- w`. -/
def State.setIndex (s : State) (w : Word) : State := { s with index := w }

/-- `DT <- b`. -/
def State.setDelay (s : State) (b : Byte) : State := { s with dt := b }

/-- `ST <- b`. -/
def State.setSound (s : State) (b : Byte) : State := { s with st := b }

/-- All of memory at once. -/
def State.setMem (s : State) (m : Memory) : State := { s with mem := m }

/-- All of the framebuffer at once. -/
def State.setFb (s : State) (f : Framebuffer) : State := { s with fb := f }

/-- `STACK[j] <- w`. -/
def State.setLink (s : State) (j : Fin 16) (w : Word) : State := { s with stack := s.stack.set j w }

/-- `SP <- n`. -/
def State.setSp (s : State) (n : Fin 17) : State := { s with sp := n }

/-- `KEYS[k] <- pressed`, the host's `set_key` (10_state.md R44); no instruction uses it. -/
def State.setKeyLatch (s : State) (k : KeyIx) (pressed : Bool) : State := { s with keys := s.keys.set k pressed }

/-- One more random byte has been drawn (log entry 1). -/
def State.nextDraw (s : State) : State := { s with draws := s.draws + 1 }

/-! ## Advance, skip (40_step_cycle.md R125, 42_control_flow.md R153) -/

/-- The normal advance `pc <- pc +16 2`. -/
def State.advance (s : State) : State := s.setPc (s.pc + 2)

/-- The skip: `pc +16 4` if the condition holds, `pc +16 2` if it does not. -/
def State.skipIf (s : State) (cond : Bool) : State := if cond then s.setPc (s.pc + 4) else s.setPc (s.pc + 2)

/-! ## Faults (60_exceptions.md) -/

/-- `raise f`: what taking an exception is on this machine (R246). The step ends with the cause and its `info`; nothing is
saved, no vector is taken, no mode changes, the state stays as it was. There is no return from it: the host decides
(R248). -/
def raise (f : Fault) : Result := .fault f

/-- The cause code of a fault (R240; 0 is "no fault", 5 is `load`'s `RomTooLarge`). -/
def Fault.code : Fault → Nat
  | .outOfBounds _ => 1
  | .stackOverflow _ => 2
  | .stackUnderflow _ => 3
  | .keyIndexOutOfRange _ => 4

/-- The `info` reported with a fault (R240). -/
def Fault.info : Fault → Nat
  | .outOfBounds addr => addr
  | .stackOverflow pc => pc.toNat
  | .stackUnderflow pc => pc.toNat
  | .keyIndexOutOfRange key => key.toNat

/-- Whether `count` bytes from `base` on all lie in the address space. An empty range makes no access and always does
(20_memory.md R70). Addresses are mathematical sums, never reduced (44_index_memory.md R201). -/
def inRange (base count : Nat) : Bool := count == 0 || decide (base + count - 1 ≤ Config.lastAddr)

/-- Go on with `next` if the whole range is in bounds; otherwise raise `OutOfBounds` with the lowest address above 4095 in
the range, before any access is made (R70). -/
def guardRange (base count : Nat) (next : State) : Result :=
  if inRange base count then .next next else raise (.outOfBounds (max base Config.memSize))

/-! ## Fetch and tick (40_step_cycle.md) -/

/-- Fetch: the word at `pc`, big-endian, or the fault if `pc + 1` exceeds the address space (R121, 20_memory.md R67). -/
def fetch (s : State) : Except Fault Word :=
  let a := s.pc.toNat
  if a + 1 > Config.lastAddr then
    .error (.outOfBounds (if a > Config.lastAddr then a else a + 1))
  else .ok (wordOfBytes (s.mem.read a) (s.mem.read (a + 1)))

/-- A timer after one tick: 1 less, and 0 stays 0 (10_state.md R30). -/
def decay (t : Byte) : Byte := if t = 0 then 0 else t - 1

/-- The timer tick at the end of every step that does not fault (R126). -/
def tick (s : State) : State := (s.setDelay (decay s.dt)).setSound (decay s.st)

/-! ## Call stack (42_control_flow.md R150, R152) -/

/-- `STACK[SP] <- w; SP <- SP + 1`, or `none` if the stack is full. -/
def State.push? (s : State) (w : Word) : Option State :=
  if h : s.sp.val < Config.stackDepth then
    some ((s.setLink ⟨s.sp.val, h⟩ w).setSp ⟨s.sp.val + 1, Nat.succ_lt_succ h⟩)
  else none

/-- The newest link `STACK[SP - 1]` and the state with `SP` one less, or `none` if the stack is empty. The entry is not
cleared (10_state.md R29). -/
def State.pop? (s : State) : Option (Word × State) :=
  if h : 0 < s.sp.val then
    have hlt : s.sp.val - 1 < 16 := by have := s.sp.isLt; omega
    some (s.stack[s.sp.val - 1], s.setSp ⟨s.sp.val - 1, by omega⟩)
  else none

/-! ## Framebuffer (41_display.md) -/

/-- `FB[r][c]`. -/
def Framebuffer.cell (f : Framebuffer) (r : Row) (c : Col) : Bool := f[r][c]

/-- `FB[r][c] <- b`. -/
def Framebuffer.put (f : Framebuffer) (r : Row) (c : Col) (b : Bool) : Framebuffer := f.set r (f[r].set c b)

/-- Every cell 0 (R140). -/
def Framebuffer.blank : Framebuffer := Vector.replicate 32 (Vector.replicate 64 false)

/-- What draw has built so far: the cells, and whether a cell has gone from 1 to 0. -/
structure Blit where
  fb : Framebuffer
  collision : Bool
deriving DecidableEq, Repr

/-- One sprite bit: a 1 inverts its cell, and reports the cell that was on; a 0 leaves it alone (R143). -/
def blitPixel (bit : Bool) (r : Row) (c : Col) (acc : Blit) : Blit :=
  if bit then ⟨acc.fb.put r c (!acc.fb.cell r c), acc.collision || acc.fb.cell r c⟩ else acc

/-- The column `(ox + col) mod 64` (R143). -/
def wrapCol (ox col : Nat) : Col := Fin.ofNat 64 (ox + col)

/-- The row `(oy + row) mod 32` (R143). -/
def wrapRow (oy row : Nat) : Row := Fin.ofNat 32 (oy + row)

/-- One sprite byte at framebuffer row `r`: columns 0 to 7, the most significant bit first (R142). -/
def blitRow (b : Byte) (ox : Nat) (r : Row) (acc : Blit) : Blit :=
  (List.range 8).foldl (fun acc col => blitPixel (b.getLsbD (7 - col)) r (wrapCol ox col) acc) acc

/-- The sprite bytes from sprite row `row` on, in ascending row order (R143). -/
def blitRows (ox oy : Nat) : (row : Nat) → List Byte → Blit → Blit
  | _, [], acc => acc
  | row, b :: bs, acc => blitRows ox oy (row + 1) bs (blitRow b ox (wrapRow oy row) acc)

/-! ## Keypad (45_keypad_timers.md R224) -/

/-- The least pressed key, scanning 0 to 15 in ascending order. -/
def Keypad.firstPressed (k : Keypad) : Option KeyIx := (List.finRange 16).find? fun j => k[j]

end Sys2Proof.Machine
end

