-- ==== Sys2Proof/Machine/Flags.lean ====
section
/-! DEFINITION. The six computations of VF (10_state.md R22), and the write of a result with its flag
(40_step_cycle.md R129). -/

namespace Sys2Proof.Machine

/-- A flag as the byte written to VF: 1 or 0. -/
def flagByte (f : Bool) : Byte := if f then 1 else 0

/-- register-add: whether the 9-bit sum exceeds 255 (43_register_alu.md R178). -/
def carryFlag (a b : Byte) : Byte := flagByte (decide (a.toNat + b.toNat > 255))

/-- register-subtract and register-subtract-reverse: whether the minuend is strictly greater (R179, R181). -/
def greaterFlag (a b : Byte) : Byte := flagByte (decide (a.toNat > b.toNat))

/-- shift-right: the bit shifted out, bit 0 (R180). -/
def lowBitFlag (a : Byte) : Byte := flagByte (a.getLsbD 0)

/-- shift-left: the bit shifted out, bit 7 (R182). -/
def highBitFlag (a : Byte) : Byte := flagByte (a.getLsbD 7)

/-- draw: whether any cell went from 1 to 0 (41_display.md R144). -/
def collisionFlag (collision : Bool) : Byte := flagByte collision

/-- VF is written first and `V[x]` second, so with `x` = 15 the result remains (R129, 43_register_alu.md R177). -/
def State.writeFlagged (s : State) (x : RegIx) (flag result : Byte) : State := (s.writeV VF flag).writeV x result

end Sys2Proof.Machine
end

