-- ==== Sys2Proof/Machine/Operands.lean ====
section
/-! DEFINITION. The operand forms: registers by `x` and `y`, immediates used zero-extended (30_encoding.md R93), the
range of memory bytes an instruction names through `I` (44_index_memory.md R201), and the key that a register names
(45_keypad_timers.md R220). -/

namespace Sys2Proof.Machine

/-- `zext_16(addr)` of a 12-bit address. -/
def zextAddr (addr : BitVec 12) : Word := addr.setWidth 16

/-- `zext_16(b)` of a byte. -/
def zextByte (b : Byte) : Word := b.setWidth 16

/-- The base address of every memory instruction: `I`, as a number. -/
def State.base (s : State) : Nat := s.index.toNat

/-- The number of registers in the block `V[0]` to `V[x]`. -/
def blockLength (x : RegIx) : Nat := x.val + 1

/-- The registers `V[0]` to `V[x]`, in ascending order (R206). -/
def State.regBlock (s : State) (x : RegIx) : List Byte := s.v.toList.take (blockLength x)

/-- The registers after `V[0]` to `V[x]` are loaded from the bytes at `base` on; those above `x` keep their values
(R208). -/
def State.loadedBlock (s : State) (x : RegIx) (base : Nat) : Vector Byte 16 :=
  Vector.ofFn fun j => if j.val ≤ x.val then s.mem.read (base + j.val) else s.v[j]

/-- The hundreds, tens and units digits of a byte (R204). -/
def bcdDigits (a : Byte) : List Byte :=
  [BitVec.ofNat 8 (a.toNat / 100), BitVec.ofNat 8 (a.toNat / 10 % 10), BitVec.ofNat 8 (a.toNat % 10)]

/-- The key whose number a byte holds: the whole 8-bit value, not reduced (R220). -/
def keyOfByte (b : Byte) : Option KeyIx := if h : b.toNat < 16 then some ⟨b.toNat, h⟩ else none

end Sys2Proof.Machine
end

