-- ==== Sys2Proof/Machine/Alu.lean ====
section
/-! DEFINITION. The register and arithmetic instructions (43_register_alu.md). All operands are sampled before anything is
written (R177); arithmetic is on unsigned numbers, narrowed modulo 256 at the end (R176). -/

namespace Sys2Proof.Machine

/-- load-immediate (R170). -/
def execLoadImmediate (x : RegIx) (kk : Byte) (s : State) : Result := .next (s.writeV x kk).advance

/-- add-immediate (R171): no flag. -/
def execAddImmediate (x : RegIx) (kk : Byte) (s : State) : Result := .next (s.writeV x (s.readV x + kk)).advance

/-- register-move (R172). -/
def execRegisterMove (x y : RegIx) (s : State) : Result := .next (s.writeV x (s.readV y)).advance

/-- register-or (R173): no flag. -/
def execRegisterOr (x y : RegIx) (s : State) : Result := .next (s.writeV x (s.readV x ||| s.readV y)).advance

/-- register-and (R174): no flag. -/
def execRegisterAnd (x y : RegIx) (s : State) : Result := .next (s.writeV x (s.readV x &&& s.readV y)).advance

/-- register-xor (R175): no flag. -/
def execRegisterXor (x y : RegIx) (s : State) : Result := .next (s.writeV x (s.readV x ^^^ s.readV y)).advance

/-- register-add (R178): VF = carry out of bit 7. -/
def execRegisterAdd (x y : RegIx) (s : State) : Result :=
  let a := s.readV x
  let b := s.readV y
  .next (s.writeFlagged x (carryFlag a b) (BitVec.ofNat 8 (a.toNat + b.toNat))).advance

/-- register-subtract (R179): VF = 1 exactly when `V[x] > V[y]`, strictly. -/
def execRegisterSubtract (x y : RegIx) (s : State) : Result :=
  let a := s.readV x
  let b := s.readV y
  .next (s.writeFlagged x (greaterFlag a b) (a - b)).advance

/-- shift-right (R180): of `V[x]` itself, the `y` field is ignored; VF = the bit shifted out. -/
def execShiftRight (x _y : RegIx) (s : State) : Result :=
  let a := s.readV x
  .next (s.writeFlagged x (lowBitFlag a) (a >>> 1)).advance

/-- register-subtract-reverse (R181): VF = 1 exactly when `V[y] > V[x]`, strictly. -/
def execRegisterSubtractReverse (x y : RegIx) (s : State) : Result :=
  let a := s.readV x
  let b := s.readV y
  .next (s.writeFlagged x (greaterFlag b a) (b - a)).advance

/-- shift-left (R182): of `V[x]` itself, the `y` field is ignored; VF = the bit shifted out. -/
def execShiftLeft (x _y : RegIx) (s : State) : Result :=
  let a := s.readV x
  .next (s.writeFlagged x (highBitFlag a) (a <<< 1)).advance

/-- random-and with the step's random byte given (R183). -/
def randomAndWith (rnd : Byte) (x : RegIx) (kk : Byte) (s : State) : State := (s.writeV x (rnd &&& kk)).advance

/-- random-and (R183): the random byte is free (10_state.md R38, log entry 1). -/
def execRandomAnd (x : RegIx) (kk : Byte) (s : State) : Result :=
  .next (randomAndWith (Config.freeByte s.draws) x kk s).nextDraw

end Sys2Proof.Machine
end

