-- ==== Sys2Proof/Machine/Control.lean ====
section
/-! DEFINITION. The control-flow instructions (42_control_flow.md). -/

namespace Sys2Proof.Machine

/-- return (R150): to the popped link plus 2; `StackUnderflow` if no link is held. -/
def execRet (s : State) : Result :=
  match s.pop? with
  | some (link, t) => .next (t.setPc (link + 2))
  | none => raise (.stackUnderflow s.pc)

/-- jump (R151). -/
def execJump (addr : BitVec 12) (s : State) : Result := .next (s.setPc (zextAddr addr))

/-- call (R152): the call's own address is pushed; `StackOverflow` if 16 links are held. -/
def execCall (addr : BitVec 12) (s : State) : Result :=
  match s.push? s.pc with
  | some t => .next (t.setPc (zextAddr addr))
  | none => raise (.stackOverflow s.pc)

/-- skip-if-equal-immediate (R154). -/
def execSkipIfEqualImmediate (x : RegIx) (kk : Byte) (s : State) : Result := .next (s.skipIf (s.readV x == kk))

/-- skip-if-not-equal-immediate (R155). -/
def execSkipIfNotEqualImmediate (x : RegIx) (kk : Byte) (s : State) : Result := .next (s.skipIf (s.readV x != kk))

/-- skip-if-registers-equal (R156). -/
def execSkipIfRegistersEqual (x y : RegIx) (s : State) : Result := .next (s.skipIf (s.readV x == s.readV y))

/-- skip-if-registers-not-equal (R157). -/
def execSkipIfRegistersNotEqual (x y : RegIx) (s : State) : Result := .next (s.skipIf (s.readV x != s.readV y))

/-- jump-with-offset (R160): always by `V[0]`; the sum is not reduced modulo 4096. -/
def execJumpWithOffset (addr : BitVec 12) (s : State) : Result := .next (s.setPc (zextAddr addr + zextByte (s.readV 0)))

end Sys2Proof.Machine
end

