-- ==== Sys2Proof/Machine/Display.lean ====
section
/-! DEFINITION. The display instructions (41_display.md). -/

namespace Sys2Proof.Machine

/-- clear-display (R140). -/
def execClearDisplay (s : State) : Result := .next (s.setFb Framebuffer.blank).advance

/-- The sprite of a draw (R142) laid over the framebuffer, from the state as it was. -/
def drawBlit (x y : RegIx) (n : BitVec 4) (s : State) : Blit :=
  blitRows (s.readV x).toNat (s.readV y).toNat 0 (s.mem.readBytes s.base n.toNat) ⟨s.fb, false⟩

/-- draw (R143): the origins are sampled before VF is written (R146(c)); the whole sprite is in bounds or nothing happens
(R146(d)); VF receives the collision flag (R144). -/
def execDraw (x y : RegIx) (n : BitVec 4) (s : State) : Result :=
  let d := drawBlit x y n s
  guardRange s.base n.toNat ((s.setFb d.fb).writeV VF (collisionFlag d.collision)).advance

end Sys2Proof.Machine
end

