-- ==== Sys2Proof/Machine/IndexMemory.lean ====
section
/-! DEFINITION. The index-register and memory instructions (44_index_memory.md). None of them that uses `I` as an address
changes it (R209). -/

namespace Sys2Proof.Machine

/-- load-index (R200). -/
def execLoadIndex (addr : BitVec 12) (s : State) : Result := .next (s.setIndex (zextAddr addr)).advance

/-- add-to-index (R202): modulo 65536, no flag. -/
def execAddToIndex (x : RegIx) (s : State) : Result := .next (s.setIndex (s.index + zextByte (s.readV x))).advance

/-- load-glyph-address (R203): the whole 8-bit value times 5; no memory is read. -/
def execLoadGlyphAddress (x : RegIx) (s : State) : Result :=
  .next (s.setIndex (BitVec.ofNat 16 ((s.readV x).toNat * Config.glyphStride))).advance

/-- store-BCD (R204): hundreds, tens, units to `I`, `I + 1`, `I + 2`. -/
def execStoreBcd (x : RegIx) (s : State) : Result :=
  guardRange s.base 3 (s.setMem (s.mem.writeBytes s.base (bcdDigits (s.readV x)))).advance

/-- register-dump (R206): `V[0]` to `V[x]` to memory from `I` on. -/
def execRegisterDump (x : RegIx) (s : State) : Result :=
  guardRange s.base (blockLength x) (s.setMem (s.mem.writeBytes s.base (s.regBlock x))).advance

/-- register-load (R208): `V[0]` to `V[x]` from memory from `I` on. -/
def execRegisterLoad (x : RegIx) (s : State) : Result :=
  guardRange s.base (blockLength x) (s.setRegs (s.loadedBlock x s.base)).advance

end Sys2Proof.Machine
end

