-- ==== Sys2Proof/Machine/KeypadTimers.lean ====
section
/-! DEFINITION. The keypad and timer instructions (45_keypad_timers.md). The latch is read as it stands when the step
begins (10_state.md R37). -/

namespace Sys2Proof.Machine

/-- skip-if-key-pressed (R221); `KeyIndexOutOfRange` if `V[x]` is above 15 (R220). -/
def execSkipIfKeyPressed (x : RegIx) (s : State) : Result :=
  match keyOfByte (s.readV x) with
  | some k => .next (s.skipIf s.keys[k])
  | none => raise (.keyIndexOutOfRange (s.readV x))

/-- skip-if-key-not-pressed (R222); `KeyIndexOutOfRange` if `V[x]` is above 15 (R220). -/
def execSkipIfKeyNotPressed (x : RegIx) (s : State) : Result :=
  match keyOfByte (s.readV x) with
  | some k => .next (s.skipIf (!s.keys[k]))
  | none => raise (.keyIndexOutOfRange (s.readV x))

/-- read-delay-timer (R225): the value before this step's tick. -/
def execReadDelayTimer (x : RegIx) (s : State) : Result := .next (s.writeV x s.dt).advance

/-- wait-for-key (R224): the least pressed key to `V[x]`, or, with no key pressed, no change at all, so that the next step
runs the instruction again. -/
def execWaitForKey (x : RegIx) (s : State) : Result :=
  match s.keys.firstPressed with
  | some k => .next (s.writeV x (BitVec.ofNat 8 k.val)).advance
  | none => .next (s.setPc s.pc)

/-- set-delay-timer (R226): the tick of the same step follows (R228). -/
def execSetDelayTimer (x : RegIx) (s : State) : Result := .next (s.setDelay (s.readV x)).advance

/-- set-sound-timer (R227): the tick of the same step follows (R228). -/
def execSetSoundTimer (x : RegIx) (s : State) : Result := .next (s.setSound (s.readV x)).advance

end Sys2Proof.Machine
end

