-- ==== Sys2Proof/Machine/NoOp.lean ====
section
/-! DEFINITION. The no-operation class (40_step_cycle.md section 3): system-call and the unassigned words. -/

namespace Sys2Proof.Machine

/-- system-call (R131): the normal advance and nothing else; `addr` is ignored. -/
def execSystemCall (_addr : BitVec 12) (s : State) : Result := .next s.advance

/-- An unassigned word (R132): the normal advance and nothing else; no field is read, no fault arises. -/
def execUnassigned (_w : Word) (s : State) : Result := .next s.advance

end Sys2Proof.Machine
end

