-- ==== Sys2Proof/Machine/Dispatch.lean ====
section
/-! DEFINITION. The dispatch: one arm per constructor of Instr. -/

namespace Sys2Proof.Machine

/-- The effect of an instruction, phases 3 and 4 of a step (40_step_cycle.md R120, R123, R125). -/
def exec (i : Instr) (s : State) : Host.Outcome State Fault Refusal :=
  match i with
  | .clearDisplay => Sys2Proof.Machine.execClearDisplay s
  | .ret => Sys2Proof.Machine.execRet s
  | .systemCall addr => Sys2Proof.Machine.execSystemCall addr s
  | .jump addr => Sys2Proof.Machine.execJump addr s
  | .call addr => Sys2Proof.Machine.execCall addr s
  | .skipIfEqualImmediate x kk => Sys2Proof.Machine.execSkipIfEqualImmediate x kk s
  | .skipIfNotEqualImmediate x kk => Sys2Proof.Machine.execSkipIfNotEqualImmediate x kk s
  | .skipIfRegistersEqual x y => Sys2Proof.Machine.execSkipIfRegistersEqual x y s
  | .loadImmediate x kk => Sys2Proof.Machine.execLoadImmediate x kk s
  | .addImmediate x kk => Sys2Proof.Machine.execAddImmediate x kk s
  | .registerMove x y => Sys2Proof.Machine.execRegisterMove x y s
  | .registerOr x y => Sys2Proof.Machine.execRegisterOr x y s
  | .registerAnd x y => Sys2Proof.Machine.execRegisterAnd x y s
  | .registerXor x y => Sys2Proof.Machine.execRegisterXor x y s
  | .registerAdd x y => Sys2Proof.Machine.execRegisterAdd x y s
  | .registerSubtract x y => Sys2Proof.Machine.execRegisterSubtract x y s
  | .shiftRight x y => Sys2Proof.Machine.execShiftRight x y s
  | .registerSubtractReverse x y => Sys2Proof.Machine.execRegisterSubtractReverse x y s
  | .shiftLeft x y => Sys2Proof.Machine.execShiftLeft x y s
  | .skipIfRegistersNotEqual x y => Sys2Proof.Machine.execSkipIfRegistersNotEqual x y s
  | .loadIndex addr => Sys2Proof.Machine.execLoadIndex addr s
  | .jumpWithOffset addr => Sys2Proof.Machine.execJumpWithOffset addr s
  | .randomAnd x kk => Sys2Proof.Machine.execRandomAnd x kk s
  | .draw x y n => Sys2Proof.Machine.execDraw x y n s
  | .skipIfKeyPressed x => Sys2Proof.Machine.execSkipIfKeyPressed x s
  | .skipIfKeyNotPressed x => Sys2Proof.Machine.execSkipIfKeyNotPressed x s
  | .readDelayTimer x => Sys2Proof.Machine.execReadDelayTimer x s
  | .waitForKey x => Sys2Proof.Machine.execWaitForKey x s
  | .setDelayTimer x => Sys2Proof.Machine.execSetDelayTimer x s
  | .setSoundTimer x => Sys2Proof.Machine.execSetSoundTimer x s
  | .addToIndex x => Sys2Proof.Machine.execAddToIndex x s
  | .loadGlyphAddress x => Sys2Proof.Machine.execLoadGlyphAddress x s
  | .storeBcd x => Sys2Proof.Machine.execStoreBcd x s
  | .registerDump x => Sys2Proof.Machine.execRegisterDump x s
  | .registerLoad x => Sys2Proof.Machine.execRegisterLoad x s
  | .unassigned w => Sys2Proof.Machine.execUnassigned w s

end Sys2Proof.Machine
end

