-- ==== Sys2Proof/Machine/Step.lean ====
section
/-! DEFINITION. One step (40_step_cycle.md R120): fetch, decode, execute and advance, timer tick. -/

namespace Sys2Proof.Machine

/-- `step()`: exactly one cycle. A fault of the fetch or of the instruction ends the step without the tick (R127). -/
def step (s : State) : Host.Outcome State Fault Refusal :=
  match fetch s with
  | .error f => raise f
  | .ok w =>
    match exec (decode w) s with
    | .next t => .next (tick t)
    | .fault f => raise f
    | .refused r => .refused r

/-- The address at which the next step can fetch: `pc`, or `PROG_BASE` where `pc` lies too high to be fetched at. -/
def State.fetchable (s : State) : Word :=
  if s.pc.toNat + 1 > Config.lastAddr then BitVec.ofNat 16 Config.progBase else s.pc

/-- `s` with the instruction whose bits are `w` (as `decodeTableWord` numbers them) stored where the next step fetches.
Where `pc` is above 4094, from which no fetch succeeds, `pc` is set to `PROG_BASE` first (log entry 13). -/
def State.withFetchWord (s : State) (nbits w : Nat) : State :=
  let t := s.setPc s.fetchable
  t.setMem (t.mem.writeBytes t.pc.toNat [highByte (tableWord nbits w), lowByte (tableWord nbits w)])

end Sys2Proof.Machine
end

