-- ==== Sys2Proof/Machine/Transactions.lean ====
section
/-! DEFINITION. The host's six transactions (10_state.md R40): `reset()`, `load(bytes)`, `step()`, `set_key`,
`framebuffer()`, `sound_timer()`, all strictly between steps (R46); power-on (R48); and a run as the sequence of
transactions that the host issues, in any order (decision D16). -/

namespace Sys2Proof.Machine

/-- `reset()` (70_reset_and_hazards.md R281), for any glyph table: memory from 80 on, the framebuffer and the keypad latch
are not written. `draws` is not the spec's and is left alone (log entry 2). -/
def hostReset (g : GlyphTable) (s : State) : State :=
  { s with
    v := Vector.replicate 16 0
    pc := BitVec.ofNat 16 Config.progBase
    index := 0
    stack := Vector.replicate 16 0
    sp := 0
    dt := 0
    st := 0
    mem := s.mem.writeBytes 0 (GlyphTable.bytes g) }

/-- The state at power-on (R48): what `reset()` writes has its reset value, and the rest is open: `MEM_INIT` is `memInit`
from address 80 on, `FB_INIT` is `fbInit`, and the keypad latch is the host's. -/
def powerOn (g : GlyphTable) (memInit : Memory) (fbInit : Framebuffer) (keys : Keypad) : State :=
  hostReset g { State.reset with mem := memInit, fb := fbInit, keys := keys }

/-- The answer of `load(bytes)`. -/
inductive LoadResult where
  | ok (s : State)
  /-- The byte sequence is longer than 3584; nothing was written (60_exceptions.md R247). -/
  | romTooLarge
deriving DecidableEq, Repr

/-- `load(bytes)` (R283): all of the bytes from `0x200` on, or nothing. -/
def hostLoad (bytes : List Byte) (s : State) : LoadResult :=
  if bytes.length > Config.romMax then .romTooLarge
  else .ok (s.setMem (s.mem.writeBytes Config.progBase bytes))

/-- `set_key(index, pressed)` (10_state.md R44); an index above 15 is not a move of the host (decision D30). -/
def hostSetKey (k : KeyIx) (pressed : Bool) (s : State) : State := s.setKeyLatch k pressed

/-- A cell as the `framebuffer()` port shows it: the byte 0 or 1 (R34). -/
def cellByte (on : Bool) : Byte := if on then 1 else 0

/-- `framebuffer()` (R45): 2048 cells in row-major order, each 0 or 1. -/
def framebufferPort (s : State) : List Byte := (s.fb.toList.flatMap Vector.toList).map cellByte

/-- `sound_timer()` (R45). -/
def soundTimerPort (s : State) : Byte := s.st

/-- What the host can do that may change the state. -/
inductive Transaction where
  | step
  | reset
  | load (bytes : List Byte)
  | setKey (k : KeyIx) (pressed : Bool)
deriving DecidableEq, Repr

/-- What a transaction answers. -/
inductive Answer where
  | ok
  | stepFault (f : Fault)
  | romTooLarge
  | stepRefused (r : Refusal)
deriving DecidableEq, Repr

/-- The result code of an answer (60_exceptions.md R240, R247): 0 is `Ok`, 1 to 4 the faults, 5 `RomTooLarge`. A refusal is
the model's own and has none. -/
def Answer.code : Answer → Option Nat
  | .ok => some 0
  | .stepFault f => some f.code
  | .romTooLarge => some 5
  | .stepRefused _ => none

/-- One transaction: the state after it and its answer. A step that faults and a load that is too large leave the state
exactly as it was (40_step_cycle.md R127, 70_reset_and_hazards.md R283). -/
def perform (g : GlyphTable) (t : Transaction) (s : State) : State × Answer :=
  match t with
  | .step =>
    match step s with
    | .next s' => (s', .ok)
    | .fault f => (s, .stepFault f)
    | .refused r => (s, .stepRefused r)
  | .reset => (hostReset g s, .ok)
  | .load bytes =>
    match hostLoad bytes s with
    | .ok s' => (s', .ok)
    | .romTooLarge => (s, .romTooLarge)
  | .setKey k pressed => (hostSetKey k pressed s, .ok)

/-- The state after a sequence of transactions. -/
def runTransactions (g : GlyphTable) : List Transaction → State → State
  | [], s => s
  | t :: ts, s => runTransactions g ts (perform g t s).1

end Sys2Proof.Machine
end

