-- ==== Sys2Proof/Safety.lean ====
section
/-! DEFINITION. What a safe run is, in the terms the claims use: the invariant of the reachable states, the complete list
of fault causes, the fetched word, and the predicates with which a frame is said. -/

namespace Sys2Proof.Machine

/-! ## The invariant -/

/-- What holds of every state that a run reaches. -/
structure State.Inv (s : State) : Prop where
  /-- Memory is in its canonical form, so it lists addresses 0 to 4095 only (20_memory.md R60). -/
  memCanonical : s.mem.wf = true
  /-- `pc` lies in 0 to 4350 (10_state.md R24(d)). -/
  pcReachable : s.pc.toNat ≤ 4350
  /-- Every link in use is the address of a call that was fetched, at most 4094 (42_control_flow.md R150). -/
  linksFetchable : ∀ j : Fin 16, j.val < s.sp.val → s.stack[j].toNat ≤ 4094

/-! ## Fetch and faults -/

/-- The next step fetches the word `w`: `pc` is at most 4094 and `w` is `MEM[pc] * 256 + MEM[pc + 1]`
(20_memory.md R67). -/
def Fetches (s : State) (w : Word) : Prop :=
  s.pc.toNat ≤ 4094 ∧ w.toNat = (s.mem.read s.pc.toNat).toNat * 256 + (s.mem.read (s.pc.toNat + 1)).toNat

/-- The next step fetches a word that decodes to `i`. -/
def FetchesInstr (s : State) (i : Instr) : Prop := ∃ w, Fetches s w ∧ decode w = i

/-- The causes of a fault with what is reported, row by row as 60_exceptions.md R240 lists them. -/
inductive FaultCause (s : State) : Fault → Prop where
  | fetch : s.pc.toNat + 1 > 4095 →
      FaultCause s (.outOfBounds (if s.pc.toNat > 4095 then s.pc.toNat else s.pc.toNat + 1))
  | draw {x y : RegIx} {n : BitVec 4} : FetchesInstr s (.draw x y n) → n.toNat ≥ 1 →
      s.index.toNat + n.toNat - 1 > 4095 → FaultCause s (.outOfBounds (max s.index.toNat 4096))
  | storeBcd {x : RegIx} : FetchesInstr s (.storeBcd x) → s.index.toNat + 2 > 4095 →
      FaultCause s (.outOfBounds (max s.index.toNat 4096))
  | registerDump {x : RegIx} : FetchesInstr s (.registerDump x) → s.index.toNat + x.val > 4095 →
      FaultCause s (.outOfBounds (max s.index.toNat 4096))
  | registerLoad {x : RegIx} : FetchesInstr s (.registerLoad x) → s.index.toNat + x.val > 4095 →
      FaultCause s (.outOfBounds (max s.index.toNat 4096))
  | call {addr : BitVec 12} : FetchesInstr s (.call addr) → s.sp.val = 16 → FaultCause s (.stackOverflow s.pc)
  | ret : FetchesInstr s .ret → s.sp.val = 0 → FaultCause s (.stackUnderflow s.pc)
  | keyPressed {x : RegIx} : FetchesInstr s (.skipIfKeyPressed x) → (s.readV x).toNat > 15 →
      FaultCause s (.keyIndexOutOfRange (s.readV x))
  | keyNotPressed {x : RegIx} : FetchesInstr s (.skipIfKeyNotPressed x) → (s.readV x).toNat > 15 →
      FaultCause s (.keyIndexOutOfRange (s.readV x))

/-- A state from which the next step completes: a safe run is one all of whose states are so. -/
def Steps (s : State) : Prop := ∃ t, step s = .next t

/-- An outcome with its next state, if it has one, changed by `f`: what is said of an instruction that neither reads nor
writes the part of the state that `f` replaces. -/
def mapNext (f : State → State) : Result → Result
  | .next t => .next (f t)
  | .fault e => .fault e
  | .refused r => .refused r

/-! ## Frames -/

/-- Every register outside `xs` holds what it held. -/
def SameRegsBut (xs : List RegIx) (s t : State) : Prop := ∀ j : RegIx, j ∉ xs → t.readV j = s.readV j

/-- `I` is unchanged. -/
def SameIndex (s t : State) : Prop := t.index = s.index

/-- The stack entries and `SP` are unchanged. -/
def SameStack (s t : State) : Prop := t.stack = s.stack ∧ t.sp = s.sp

/-- Both timers are unchanged. -/
def SameTimers (s t : State) : Prop := t.dt = s.dt ∧ t.st = s.st

/-- Every byte of memory reads as before. -/
def SameMem (s t : State) : Prop := ∀ a : Nat, t.mem.read a = s.mem.read a

/-- Every byte of memory outside the `n` bytes from `base` on reads as before. -/
def SameMemOutside (base n : Nat) (s t : State) : Prop :=
  ∀ a : Nat, ¬(base ≤ a ∧ a < base + n) → t.mem.read a = s.mem.read a

/-- Every framebuffer cell is unchanged. -/
def SameFb (s t : State) : Prop := t.fb = s.fb

/-- The keypad latch, which no instruction writes, is unchanged, and so is the model's draw counter. -/
def SameInputs (s t : State) : Prop := t.keys = s.keys ∧ t.draws = s.draws

/-- Nothing is changed but `pc` and the registers `xs`. -/
def OnlyRegisters (xs : List RegIx) (s t : State) : Prop :=
  SameRegsBut xs s t ∧ SameIndex s t ∧ SameStack s t ∧ SameTimers s t ∧ SameMem s t ∧ SameFb s t ∧ SameInputs s t

/-- The registers an instruction may write: the one its `x` field names, VF for the six flag-writing instructions, and the
block `V[0]` to `V[x]` for register-load (10_state.md R21, R22). -/
def destinations : Instr → List RegIx
  | .loadImmediate x _ | .addImmediate x _ | .randomAnd x _ => [x]
  | .registerMove x _ | .registerOr x _ | .registerAnd x _ | .registerXor x _ => [x]
  | .registerAdd x _ | .registerSubtract x _ | .shiftRight x _ | .registerSubtractReverse x _ | .shiftLeft x _ => [x, VF]
  | .draw _ _ _ => [VF]
  | .readDelayTimer x | .waitForKey x => [x]
  | .registerLoad x => (List.finRange 16).filter fun j => j.val ≤ x.val
  | .clearDisplay | .ret | .systemCall _ | .jump _ | .call _ | .unassigned _ => []
  | .skipIfEqualImmediate _ _ | .skipIfNotEqualImmediate _ _ | .skipIfRegistersEqual _ _ => []
  | .skipIfRegistersNotEqual _ _ | .skipIfKeyPressed _ | .skipIfKeyNotPressed _ => []
  | .loadIndex _ | .jumpWithOffset _ | .setDelayTimer _ | .setSoundTimer _ => []
  | .addToIndex _ | .loadGlyphAddress _ | .storeBcd _ | .registerDump _ => []

/-- The sprite mask of a draw at a cell: whether some sprite row and column land there with their bit set
(41_display.md R146(b)). -/
def spriteCovers (s : State) (ox oy n : Nat) (r : Row) (c : Col) : Prop :=
  ∃ row col : Nat, row < n ∧ col < 8 ∧ r.val = (oy + row) % 32 ∧ c.val = (ox + col) % 64 ∧
    (s.mem.read (s.index.toNat + row)).getLsbD (7 - col) = true

end Sys2Proof.Machine
end

