-- ==== Sys2Proof/Certificates/Slice0/Obligations.lean ====
section
/-! DEFINITION. The statements for the provers, each a Prop: the encoding, the step, the whole-machine rules, the result and
the frame of every instruction, the host's transactions, and the invariant. In their order in OBLIGATIONS.json.

Where a statement names an instruction's word, the number is that of 30_encoding.md R96, which the spec supplies from general
knowledge (its decision D1, log entry 15); what the named instruction does rests on it nowhere. Where a statement rests on
another decision that the spec marks as its own, its docstring names the decision. -/

open Sys2Proof Sys2Proof.Machine

/-! ## Encoding (30_encoding.md) -/

/-- Decoding the word of a well-formed instruction gives the instruction back, every operand at every value; and so does
decoding its two bytes at the head of any byte sequence, whose rest is left (R90, R91, R96). -/
def Obligations.DecodeOfEncode : Prop :=
  ∀ i : Instr, i.wellFormed = true →
    decode (encode i) = i ∧ ∀ rest : List Byte, decodeBytes (encodeBytes i ++ rest) = .ok (i, rest)

/-- Every word is the encoding of the instruction it decodes to, and that instruction is well-formed; decoding is total (R122).
That no bit is dropped, not even one the core ignores (the `y` field of a shift, an unassigned word), is the model's choice
to keep those bits in the terms (log entry 14); which words are unassigned is the spec's decision D2 (log entry 16). -/
def Obligations.EncodeOfDecode : Prop :=
  ∀ w : Word, encode (decode w) = w ∧ (decode w).wellFormed = true

/-- The decoder takes the first row of the opcode map, in priority order, that the word selects by mask and match (R96, R97;
spec/opcode_table.json). -/
def Obligations.DecoderFollowsOpcodeMap : Prop :=
  ∀ w : Word, (opcodeRowOf w).map OpcodeRow.mnemonic = some (decode w).mnemonic

/-- R97, by the number of the word: (a) only `0x00E0` and `0x00EE` are clear-display and return, and every other word with
`op` = 0 is system-call; (b) families 5 and 9 require `n` = 0; (c) families 8, E, F require a listed sub-selector;
(d) exactly the other words are unassigned (the spec's decision D2, log entry 16). -/
def Obligations.MatchingIsStrict : Prop :=
  ∀ w : Word,
    (decode w = .clearDisplay ↔ w.toNat = 0x00E0) ∧
    (decode w = .ret ↔ w.toNat = 0x00EE) ∧
    (w.toNat / 4096 = 0 → w.toNat ≠ 0x00E0 → w.toNat ≠ 0x00EE →
      decode w = .systemCall (BitVec.ofNat 12 w.toNat)) ∧
    (decode w = .unassigned w ↔
      (w.toNat / 4096 = 0x5 ∧ w.toNat % 16 ≠ 0) ∨
      (w.toNat / 4096 = 0x9 ∧ w.toNat % 16 ≠ 0) ∨
      (w.toNat / 4096 = 0x8 ∧ w.toNat % 16 ∉ [0x0, 0x1, 0x2, 0x3, 0x4, 0x5, 0x6, 0x7, 0xE]) ∨
      (w.toNat / 4096 = 0xE ∧ w.toNat % 256 ∉ [0x9E, 0xA1]) ∨
      (w.toNat / 4096 = 0xF ∧ w.toNat % 256 ∉ [0x07, 0x0A, 0x15, 0x18, 0x1E, 0x29, 0x33, 0x55, 0x65]))

/-- R104, row by row: the word of every mnemonic with its operands, as a number (decision D1, log entry 15). The two shifts are
assembled with `y` = 0. -/
def Obligations.InstructionWords : Prop :=
  (encode .clearDisplay).toNat = 0x00E0 ∧ (encode .ret).toNat = 0x00EE ∧
  (∀ addr : BitVec 12, addr ≠ 0x0E0 → addr ≠ 0x0EE → (encode (.systemCall addr)).toNat = 0x0000 + addr.toNat) ∧
  (∀ addr : BitVec 12, (encode (.jump addr)).toNat = 0x1000 + addr.toNat ∧
    (encode (.call addr)).toNat = 0x2000 + addr.toNat ∧
    (encode (.loadIndex addr)).toNat = 0xA000 + addr.toNat ∧
    (encode (.jumpWithOffset addr)).toNat = 0xB000 + addr.toNat) ∧
  (∀ (x : RegIx) (kk : Byte),
    (encode (.skipIfEqualImmediate x kk)).toNat = 0x3000 + x.val * 256 + kk.toNat ∧
    (encode (.skipIfNotEqualImmediate x kk)).toNat = 0x4000 + x.val * 256 + kk.toNat ∧
    (encode (.loadImmediate x kk)).toNat = 0x6000 + x.val * 256 + kk.toNat ∧
    (encode (.addImmediate x kk)).toNat = 0x7000 + x.val * 256 + kk.toNat ∧
    (encode (.randomAnd x kk)).toNat = 0xC000 + x.val * 256 + kk.toNat) ∧
  (∀ x y : RegIx,
    (encode (.skipIfRegistersEqual x y)).toNat = 0x5000 + x.val * 256 + y.val * 16 ∧
    (encode (.registerMove x y)).toNat = 0x8000 + x.val * 256 + y.val * 16 ∧
    (encode (.registerOr x y)).toNat = 0x8001 + x.val * 256 + y.val * 16 ∧
    (encode (.registerAnd x y)).toNat = 0x8002 + x.val * 256 + y.val * 16 ∧
    (encode (.registerXor x y)).toNat = 0x8003 + x.val * 256 + y.val * 16 ∧
    (encode (.registerAdd x y)).toNat = 0x8004 + x.val * 256 + y.val * 16 ∧
    (encode (.registerSubtract x y)).toNat = 0x8005 + x.val * 256 + y.val * 16 ∧
    (encode (.registerSubtractReverse x y)).toNat = 0x8007 + x.val * 256 + y.val * 16 ∧
    (encode (.skipIfRegistersNotEqual x y)).toNat = 0x9000 + x.val * 256 + y.val * 16 ∧
    ∀ n : BitVec 4, (encode (.draw x y n)).toNat = 0xD000 + x.val * 256 + y.val * 16 + n.toNat) ∧
  (∀ x : RegIx,
    (encode (.shiftRight x 0)).toNat = 0x8006 + x.val * 256 ∧ (encode (.shiftLeft x 0)).toNat = 0x800E + x.val * 256 ∧
    (encode (.skipIfKeyPressed x)).toNat = 0xE09E + x.val * 256 ∧
    (encode (.skipIfKeyNotPressed x)).toNat = 0xE0A1 + x.val * 256 ∧
    (encode (.readDelayTimer x)).toNat = 0xF007 + x.val * 256 ∧ (encode (.waitForKey x)).toNat = 0xF00A + x.val * 256 ∧
    (encode (.setDelayTimer x)).toNat = 0xF015 + x.val * 256 ∧ (encode (.setSoundTimer x)).toNat = 0xF018 + x.val * 256 ∧
    (encode (.addToIndex x)).toNat = 0xF01E + x.val * 256 ∧ (encode (.loadGlyphAddress x)).toNat = 0xF029 + x.val * 256 ∧
    (encode (.storeBcd x)).toNat = 0xF033 + x.val * 256 ∧ (encode (.registerDump x)).toNat = 0xF055 + x.val * 256 ∧
    (encode (.registerLoad x)).toNat = 0xF065 + x.val * 256)

/-- The words of the table of 95_test_vectors.md section 2.8, and one system-call and one unassigned word, decode to the
instructions they stand for. -/
def Obligations.SampleWordsDecode : Prop :=
  decode 0x00E0 = .clearDisplay ∧ decode 0x00EE = .ret ∧ decode 0x2ABC = .call 0xABC ∧
  decode 0x6A9D = .loadImmediate 10 0x9D ∧ decode 0x8AB4 = .registerAdd 10 11 ∧ decode 0xD345 = .draw 3 4 5 ∧
  decode 0xFA33 = .storeBcd 10 ∧ decode 0xE19E = .skipIfKeyPressed 1 ∧ decode 0x01E0 = .systemCall 0x1E0 ∧
  decode 0x5121 = .unassigned 0x5121

/-! ## The step (40_step_cycle.md, 60_exceptions.md) -/

/-- R120: a step whose `pc + 1` exceeds 4095 faults at the fetch and does nothing else; any other step runs the instruction
that the two bytes at `pc` decode to, and then the tick, unless the instruction faults. The address reported with the fetch
fault is the spec's decision D6 (log entry 10). -/
def Obligations.StepRunsTheFetchedInstruction : Prop :=
  ∀ s : State,
    (s.pc.toNat + 1 > 4095 →
      step s = .fault (.outOfBounds (if s.pc.toNat > 4095 then s.pc.toNat else s.pc.toNat + 1))) ∧
    (∀ w : Word, Fetches s w →
      (∀ t, exec (decode w) s = .next t → step s = .next (tick t)) ∧
      (∀ f, exec (decode w) s = .fault f → step s = .fault f) ∧
      (∀ r, exec (decode w) s = .refused r → step s = .refused r))

/-- R126: every step that does not fault ends with each timer 1 lower than the executed instruction left it, and 0 if it
left it 0; no instruction but the two timer sets changes what the tick starts from. -/
def Obligations.EveryCompletedStepTicks : Prop :=
  ∀ (s u : State) (w : Word), Fetches s w → step s = .next u →
    (∃ t, exec (decode w) s = .next t ∧ u.dt.toNat = t.dt.toNat - 1 ∧ u.st.toNat = t.st.toNat - 1) ∧
    ((∀ x, decode w ≠ .setDelayTimer x) → u.dt.toNat = s.dt.toNat - 1) ∧
    ((∀ x, decode w ≠ .setSoundTimer x) → u.st.toNat = s.st.toNat - 1)

/-- R125: the new `pc` of every instruction, class by class, with `a` the address of the instruction. Return's is the
spec's decision D4 (log entry 20). -/
def Obligations.NewProgramCounter : Prop :=
  ∀ (i : Instr) (s t : State), exec i s = .next t →
    match i with
    | .skipIfEqualImmediate x kk => t.pc = s.pc + if s.readV x = kk then 4 else 2
    | .skipIfNotEqualImmediate x kk => t.pc = s.pc + if s.readV x = kk then 2 else 4
    | .skipIfRegistersEqual x y => t.pc = s.pc + if s.readV x = s.readV y then 4 else 2
    | .skipIfRegistersNotEqual x y => t.pc = s.pc + if s.readV x = s.readV y then 2 else 4
    | .skipIfKeyPressed x => ∀ k : KeyIx, (s.readV x).toNat = k.val → t.pc = s.pc + if s.keys[k] then 4 else 2
    | .skipIfKeyNotPressed x => ∀ k : KeyIx, (s.readV x).toNat = k.val → t.pc = s.pc + if s.keys[k] then 2 else 4
    | .jump addr => t.pc.toNat = addr.toNat
    | .call addr => t.pc.toNat = addr.toNat
    | .jumpWithOffset addr => t.pc.toNat = addr.toNat + (s.readV 0).toNat
    | .ret => ∀ j : Fin 16, j.val + 1 = s.sp.val → t.pc = s.stack[j] + 2
    | .waitForKey _ => t.pc = if ∀ k : KeyIx, s.keys[k] = false then s.pc else s.pc + 2
    | .clearDisplay | .systemCall _ | .unassigned _ | .loadImmediate _ _ | .addImmediate _ _ | .registerMove _ _
    | .registerOr _ _ | .registerAnd _ _ | .registerXor _ _ | .registerAdd _ _ | .registerSubtract _ _
    | .shiftRight _ _ | .registerSubtractReverse _ _ | .shiftLeft _ _ | .loadIndex _ | .randomAnd _ _ | .draw _ _ _
    | .readDelayTimer _ | .setDelayTimer _ | .setSoundTimer _ | .addToIndex _ | .loadGlyphAddress _ | .storeBcd _
    | .registerDump _ | .registerLoad _ => t.pc = s.pc + 2

/-- R240: a step faults exactly for the causes of the table, with exactly the information the table gives, and the causes
have the codes 1 to 4, 0 being `Ok`. The codes and the information are the spec's decision D6 (log entry 10), the fourth
cause its decision D9 (log entry 18), which conditions are faults its decisions D7 and D8 (log entry 8). -/
def Obligations.FaultsAreExactlyTheListedCauses : Prop :=
  (∀ (s : State) (f : Fault), step s = .fault f ↔ FaultCause s f) ∧
  (∀ a : Nat, (Fault.outOfBounds a).code = 1 ∧ (Fault.outOfBounds a).info = a) ∧
  (∀ p : Word, (Fault.stackOverflow p).code = 2 ∧ (Fault.stackOverflow p).info = p.toNat) ∧
  (∀ p : Word, (Fault.stackUnderflow p).code = 3 ∧ (Fault.stackUnderflow p).info = p.toNat) ∧
  (∀ k : Byte, (Fault.keyIndexOutOfRange k).code = 4 ∧ (Fault.keyIndexOutOfRange k).info = k.toNat) ∧
  Answer.code .ok = some 0

/-- R252: the fetch fault comes first, from `pc` alone, so that nothing is decoded or executed where it fires; and each
instruction has at most one fault of its own, raised exactly under its one condition: `StackOverflow` by call,
`StackUnderflow` by return, `OutOfBounds` by draw, store-BCD, register-dump and register-load, `KeyIndexOutOfRange` by the key
skips, none by any other. The conditions are the spec's decisions D7, D8 (log entry 8) and D9 (log entry 18), what is reported
its decision D6 (log entry 10). -/
def Obligations.AtMostOneFaultApplies : Prop :=
  (∀ s t : State, s.pc.toNat + 1 > 4095 → s.pc = t.pc →
    step s = step t ∧ step s = .fault (.outOfBounds (max s.pc.toNat 4096))) ∧
  ∀ (i : Instr) (s : State) (f : Fault), exec i s = .fault f ↔
    match i with
    | .call _ => s.sp.val = 16 ∧ f = .stackOverflow s.pc
    | .ret => s.sp.val = 0 ∧ f = .stackUnderflow s.pc
    | .draw _ _ n => n.toNat ≥ 1 ∧ s.base + n.toNat - 1 > 4095 ∧ f = .outOfBounds (max s.base 4096)
    | .storeBcd _ => s.base + 2 > 4095 ∧ f = .outOfBounds (max s.base 4096)
    | .registerDump x => s.base + x.val > 4095 ∧ f = .outOfBounds (max s.base 4096)
    | .registerLoad x => s.base + x.val > 4095 ∧ f = .outOfBounds (max s.base 4096)
    | .skipIfKeyPressed x => (s.readV x).toNat > 15 ∧ f = .keyIndexOutOfRange (s.readV x)
    | .skipIfKeyNotPressed x => (s.readV x).toNat > 15 ∧ f = .keyIndexOutOfRange (s.readV x)
    | .clearDisplay | .systemCall _ | .unassigned _ | .jump _ | .jumpWithOffset _ | .skipIfEqualImmediate _ _
    | .skipIfNotEqualImmediate _ _ | .skipIfRegistersEqual _ _ | .skipIfRegistersNotEqual _ _ | .loadImmediate _ _
    | .addImmediate _ _ | .registerMove _ _ | .registerOr _ _ | .registerAnd _ _ | .registerXor _ _ | .registerAdd _ _
    | .registerSubtract _ _ | .shiftRight _ _ | .registerSubtractReverse _ _ | .shiftLeft _ _ | .randomAnd _ _
    | .loadIndex _ | .addToIndex _ | .loadGlyphAddress _ | .readDelayTimer _ | .waitForKey _ | .setDelayTimer _
    | .setSoundTimer _ => False

/-- No word is illegal (R98, R249): every fetched word has a meaning, and where no cause of R240 applies the step
completes. -/
def Obligations.EveryFetchedWordExecutes : Prop :=
  ∀ s : State, (∀ r, step s ≠ .refused r) ∧ ((∀ f, ¬FaultCause s f) → ∃ t, step s = .next t)

/-- R127: a faulting step reports its fault and leaves the whole state as it was (the spec's decision D5, log entry 8). -/
def Obligations.FaultingStepChangesNothing : Prop :=
  ∀ (g : GlyphTable) (s : State) (f : Fault), step s = .fault f → perform g .step s = (s, .stepFault f)

/-- Whether and how a step faults depends on `pc`, `I`, `SP`, the registers and the two bytes at `pc` alone: not on the
keypad, the random byte, the timers, the stack entries or the framebuffer (R248). -/
def Obligations.FaultsDependOnFewParts : Prop :=
  ∀ (s t : State) (f : Fault), s.pc = t.pc → s.index = t.index → s.sp = t.sp → s.v = t.v →
    s.mem.read s.pc.toNat = t.mem.read s.pc.toNat → s.mem.read (s.pc.toNat + 1) = t.mem.read (s.pc.toNat + 1) →
    step s = .fault f → step t = .fault f

/-- R78 and the operation of register-dump: where a dump of at least two registers covers the bytes of the next
instruction, the next step runs the word just stored, with no other action between. -/
def Obligations.StoredCodeRunsAtOnce : Prop :=
  ∀ (s t : State) (x : RegIx) (w : Word), FetchesInstr s (.registerDump x) → 1 ≤ x.val →
    s.base = s.pc.toNat + 2 → w.toNat = (s.readV 0).toNat * 256 + (s.readV 1).toNat → step s = .next t →
    Fetches t w ∧ ∀ u, exec (decode w) t = .next u → step t = .next (tick u)

/-! ## Whole-machine rules: who reads and who writes each part of the state -/

/-- R36: the core never writes the keypad latch, by no instruction and not by `reset()`, and only the two key skips and
wait-for-key read it: any other instruction does the same whatever the latch holds. -/
def Obligations.KeypadIsReadByThreeWrittenByNone : Prop :=
  (∀ (i : Instr) (s t : State), exec i s = .next t → t.keys = s.keys) ∧
  (∀ (g : GlyphTable) (s : State), (hostReset g s).keys = s.keys) ∧
  (∀ (i : Instr) (s : State) (k : Keypad), (∀ x, i ≠ .skipIfKeyPressed x) → (∀ x, i ≠ .skipIfKeyNotPressed x) →
    (∀ x, i ≠ .waitForKey x) →
    exec i { s with keys := k } = mapNext (fun t => { t with keys := k }) (exec i s))

/-- R35: clear-display and draw alone change the framebuffer, `reset()` does not, and no instruction but them reads or
writes it. -/
def Obligations.FramebufferBelongsToTwoInstructions : Prop :=
  (∀ (g : GlyphTable) (s : State), (hostReset g s).fb = s.fb) ∧
  (∀ (i : Instr) (s : State) (f : Framebuffer), i ≠ .clearDisplay → (∀ x y n, i ≠ .draw x y n) →
    exec i { s with fb := f } = mapNext (fun t => { t with fb := f }) (exec i s))

/-- R209: no instruction changes `I` but load-index, add-to-index and load-glyph-address; so none that uses it as an address
does. -/
def Obligations.IndexKeptByItsUsers : Prop :=
  ∀ (i : Instr) (s t : State), exec i s = .next t → t.index ≠ s.index →
    (∃ addr, i = .loadIndex addr) ∨ (∃ x, i = .addToIndex x) ∨ ∃ x, i = .loadGlyphAddress x

/-- Stack entries are written by call alone, one entry, and `SP` is changed by call and return alone, by one; only return
reads an entry (R27, R28, R29). -/
def Obligations.StackBelongsToCallAndReturn : Prop :=
  (∀ (i : Instr) (s t : State), exec i s = .next t → (∀ addr, i ≠ .call addr) →
    t.stack = s.stack ∧ (i ≠ .ret → t.sp = s.sp) ∧ (i = .ret → t.sp.val + 1 = s.sp.val)) ∧
  (∀ (addr : BitVec 12) (s t : State), exec (.call addr) s = .next t →
    t.sp.val = s.sp.val + 1 ∧ ∀ j : Fin 16, j.val ≠ s.sp.val → t.stack[j] = s.stack[j]) ∧
  (∀ (i : Instr) (s : State) (k : Vector Word 16), i ≠ .ret → (∀ addr, i ≠ .call addr) →
    exec i { s with stack := k } = mapNext (fun t => { t with stack := k }) (exec i s))

/-- Beyond its fetch, only draw, store-BCD, register-dump and register-load touch memory, and of these only store-BCD and
register-dump write it (R69). -/
def Obligations.MemoryIsTouchedByFourInstructions : Prop :=
  (∀ (i : Instr) (s : State) (m : Memory), (∀ x y n, i ≠ .draw x y n) → (∀ x, i ≠ .storeBcd x) →
    (∀ x, i ≠ .registerDump x) → (∀ x, i ≠ .registerLoad x) →
    exec i { s with mem := m } = mapNext (fun t => { t with mem := m }) (exec i s)) ∧
  (∀ (i : Instr) (s t : State), exec i s = .next t → (∀ x, i ≠ .storeBcd x) → (∀ x, i ≠ .registerDump x) →
    SameMem s t)

/-- No instruction writes a register that its `x` field does not name, but VF by the six flag-writing instructions and the
block of register-load (R21, R22). -/
def Obligations.RegistersWrittenAreThoseNamed : Prop :=
  ∀ (i : Instr) (s t : State), exec i s = .next t → ∀ j : RegIx, j ∉ destinations i → t.readV j = s.readV j

/-- `DT` is written by set-delay-timer and by the tick and read by read-delay-timer; `ST` is written by set-sound-timer and by
the tick and read by no instruction (R31): any other instruction does the same whatever the timer holds. -/
def Obligations.TimersBelongToTheirInstructions : Prop :=
  (∀ (i : Instr) (s : State) (b : Byte), (∀ x, i ≠ .readDelayTimer x) → (∀ x, i ≠ .setDelayTimer x) →
    exec i { s with dt := b } = mapNext (fun t => { t with dt := b }) (exec i s)) ∧
  (∀ (i : Instr) (s : State) (b : Byte), (∀ x, i ≠ .setSoundTimer x) →
    exec i { s with st := b } = mapNext (fun t => { t with st := b }) (exec i s)) ∧
  (∀ (x : RegIx) (s : State) (b : Byte),
    exec (.setDelayTimer x) { s with dt := b } = exec (.setDelayTimer x) s ∧
    exec (.setSoundTimer x) { s with st := b } = exec (.setSoundTimer x) s)

/-- The random byte is used only if the instruction executed is random-and (R38): any other instruction does the same
whichever draw comes next. -/
def Obligations.RandomByteIsUsedByRandomAndAlone : Prop :=
  ∀ (i : Instr) (s : State) (d : Nat), (∀ x kk, i ≠ .randomAnd x kk) →
    exec i { s with draws := d } = mapNext (fun t => { t with draws := d }) (exec i s)

/-! ## No-operations and display -/

/-- R131, R132: system-call and an unassigned word advance `pc` by 2 and change nothing else; as a step, the timers tick
besides, and no fault arises. -/
def Obligations.NoOperationsOnlyAdvance : Prop :=
  ∀ (s : State) (i : Instr), (∃ addr, i = .systemCall addr) ∨ (∃ w, i = .unassigned w) →
    (∃ t, exec i s = .next t ∧ t.pc = s.pc + 2 ∧ OnlyRegisters [] s t) ∧
    (FetchesInstr s i → ∃ u, step s = .next u ∧ u.pc = s.pc + 2 ∧ u.dt.toNat = s.dt.toNat - 1 ∧
      u.st.toNat = s.st.toNat - 1 ∧ SameRegsBut [] s u ∧ SameIndex s u ∧ SameStack s u ∧ SameMem s u ∧ SameFb s u ∧
      SameInputs s u)

/-- R140: word `0x00E0`; clear-display sets every cell to 0, advances `pc`, and changes nothing else, VF included; as a step,
the timers tick besides. The word's number is the spec's decision D1 (log entry 15). -/
def Obligations.ClearDisplayBlanksEveryCell : Prop :=
  decode 0x00E0 = .clearDisplay ∧
  ∀ s : State, ∃ t, exec .clearDisplay s = .next t ∧ (∀ (r : Row) (c : Col), t.fb.cell r c = false) ∧
    t.pc = s.pc + 2 ∧ SameRegsBut [] s t ∧ SameIndex s t ∧ SameStack s t ∧ SameTimers s t ∧ SameMem s t ∧
    SameInputs s t ∧ (FetchesInstr s .clearDisplay → step s = .next (tick t))

/-- R143, R144: where the sprite lies in memory, the cell-by-cell exclusive or with the sprite mask, each sprite bit at
`((oy + row) mod 32, (ox + col) mod 64)`, origins from the registers as they were; VF is 1 if some covered cell was on and
0 otherwise; `pc` advances and nothing else changes. Where a sprite row would lie above 4095, `OutOfBounds`. That the range
is checked first is the spec's decision D8 (log entry 8), that an origin in VF is the old VF its decision D10 (log entry
17). -/
def Obligations.DrawXorsTheSpriteMask : Prop :=
  ∀ (s : State) (x y : RegIx) (n : BitVec 4),
    decode (BitVec.ofNat 16 (0xD000 + x.val * 256 + y.val * 16 + n.toNat)) = .draw x y n ∧
    (n.toNat = 0 ∨ s.base + n.toNat - 1 ≤ 4095 →
      ∃ t, exec (.draw x y n) s = .next t ∧
        (∀ (r : Row) (c : Col),
          (spriteCovers s (s.readV x).toNat (s.readV y).toNat n.toNat r c → t.fb.cell r c = !s.fb.cell r c) ∧
          (¬spriteCovers s (s.readV x).toNat (s.readV y).toNat n.toNat r c → t.fb.cell r c = s.fb.cell r c)) ∧
        ((∃ (r : Row) (c : Col), spriteCovers s (s.readV x).toNat (s.readV y).toNat n.toNat r c ∧
          s.fb.cell r c = true) → (t.readV VF).toNat = 1) ∧
        ((∀ (r : Row) (c : Col), spriteCovers s (s.readV x).toNat (s.readV y).toNat n.toNat r c →
          s.fb.cell r c = false) → (t.readV VF).toNat = 0) ∧
        t.pc = s.pc + 2 ∧ SameRegsBut [VF] s t ∧ SameIndex s t ∧ SameStack s t ∧ SameTimers s t ∧ SameMem s t ∧
        SameInputs s t) ∧
    (n.toNat ≥ 1 → s.base + n.toNat - 1 > 4095 →
      exec (.draw x y n) s = .fault (.outOfBounds (max s.base 4096)))

/-- R146(e): the same sprite drawn twice at the same place restores the framebuffer, and the second draw reports VF = 1
exactly if some covered cell was turned on by the first. The place is the same because neither origin register is VF. -/
def Obligations.DrawingTwiceRestores : Prop :=
  ∀ (s t u : State) (x y : RegIx) (n : BitVec 4), x ≠ VF → y ≠ VF → exec (.draw x y n) s = .next t →
    exec (.draw x y n) t = .next u →
    u.fb = s.fb ∧ ((u.readV VF).toNat = 1 ↔ ∃ (r : Row) (c : Col), s.fb.cell r c = false ∧ t.fb.cell r c = true)

/-- R145: two states with the same sprite and framebuffer, and origins equal modulo 64 and modulo 32, draw the same cells and
report the same collision: wrapping the origin first changes nothing. -/
def Obligations.DrawOriginCountsModuloTheScreen : Prop :=
  ∀ (s t s' t' : State) (x y : RegIx) (n : BitVec 4), s.index = s'.index → s.mem = s'.mem → s.fb = s'.fb →
    (s.readV x).toNat % 64 = (s'.readV x).toNat % 64 → (s.readV y).toNat % 32 = (s'.readV y).toNat % 32 →
    exec (.draw x y n) s = .next t → exec (.draw x y n) s' = .next t' →
    t.fb = t'.fb ∧ t.readV VF = t'.readV VF

/-! ## Control flow (42_control_flow.md) -/

/-- R151, R160: jump goes to `addr`; jump-with-offset to `addr + V[0]`, not reduced modulo 4096; nothing else changes.
The words' numbers are the spec's decision D1 (log entry 15). -/
def Obligations.JumpsSetTheProgramCounter : Prop :=
  ∀ (s : State) (addr : BitVec 12),
    (decode (BitVec.ofNat 16 (0x1000 + addr.toNat)) = .jump addr ∧
      ∃ t, exec (.jump addr) s = .next t ∧ t.pc.toNat = addr.toNat ∧ OnlyRegisters [] s t) ∧
    (decode (BitVec.ofNat 16 (0xB000 + addr.toNat)) = .jumpWithOffset addr ∧
      ∃ t, exec (.jumpWithOffset addr) s = .next t ∧ t.pc.toNat = addr.toNat + (s.readV 0).toNat ∧
        OnlyRegisters [] s t)

/-- R152: with `SP` below 16, call stores its own address in `STACK[SP]`, adds 1 to `SP` and goes to `addr`; with `SP` = 16
it faults with `StackOverflow`. What is pushed is the spec's decision D4 (log entry 20), the fault its decision D7. -/
def Obligations.CallPushesItsOwnAddress : Prop :=
  ∀ (s : State) (addr : BitVec 12),
    decode (BitVec.ofNat 16 (0x2000 + addr.toNat)) = .call addr ∧
    (∀ j : Fin 16, s.sp.val = j.val →
      ∃ t, exec (.call addr) s = .next t ∧ t.pc.toNat = addr.toNat ∧ t.sp.val = s.sp.val + 1 ∧ t.stack[j] = s.pc ∧
        (∀ k : Fin 16, k ≠ j → t.stack[k] = s.stack[k]) ∧ SameRegsBut [] s t ∧ SameIndex s t ∧ SameTimers s t ∧
        SameMem s t ∧ SameFb s t ∧ SameInputs s t) ∧
    (s.sp.val = 16 → exec (.call addr) s = .fault (.stackOverflow s.pc))

/-- R150: with `SP` above 0, return takes 1 from `SP` and goes to the popped link plus 2, the entry staying as it is; with
`SP` = 0 it faults with `StackUnderflow`. The plus 2 is the spec's decision D4 (log entry 20), the fault its decision
D7. -/
def Obligations.ReturnGoesPastTheCall : Prop :=
  decode 0x00EE = .ret ∧
  ∀ s : State,
    (∀ j : Fin 16, s.sp.val = j.val + 1 →
      ∃ t, exec .ret s = .next t ∧ t.pc = s.stack[j] + 2 ∧ t.sp.val = j.val ∧ t.stack = s.stack ∧
        SameRegsBut [] s t ∧ SameIndex s t ∧ SameTimers s t ∧ SameMem s t ∧ SameFb s t ∧ SameInputs s t) ∧
    (s.sp.val = 0 → exec .ret s = .fault (.stackUnderflow s.pc))

/-- A return after a call, with anything between that left the stack as the call did, comes to the instruction after the call
with `SP` as before it (R150, R152; 90_conflicts.md C1, decision D4). -/
def Obligations.ReturnUndoesCall : Prop :=
  ∀ (s t m : State) (addr : BitVec 12), exec (.call addr) s = .next t → m.sp = t.sp → m.stack = t.stack →
    ∃ u, exec .ret m = .next u ∧ u.pc = s.pc + 2 ∧ u.sp = s.sp

/-- R154 to R157: each of the four register skips advances `pc` by 4 if its condition holds and by 2 if not, and changes
nothing else. The words' numbers are the spec's decision D1 (log entry 15). -/
def Obligations.SkipsTestAndAdvance : Prop :=
  ∀ (s : State) (x y : RegIx) (kk : Byte),
    (decode (BitVec.ofNat 16 (0x3000 + x.val * 256 + kk.toNat)) = .skipIfEqualImmediate x kk ∧
      ∃ t, exec (.skipIfEqualImmediate x kk) s = .next t ∧
        t.pc = (if s.readV x = kk then s.pc + 4 else s.pc + 2) ∧ OnlyRegisters [] s t) ∧
    (decode (BitVec.ofNat 16 (0x4000 + x.val * 256 + kk.toNat)) = .skipIfNotEqualImmediate x kk ∧
      ∃ t, exec (.skipIfNotEqualImmediate x kk) s = .next t ∧
        t.pc = (if s.readV x ≠ kk then s.pc + 4 else s.pc + 2) ∧ OnlyRegisters [] s t) ∧
    (decode (BitVec.ofNat 16 (0x5000 + x.val * 256 + y.val * 16)) = .skipIfRegistersEqual x y ∧
      ∃ t, exec (.skipIfRegistersEqual x y) s = .next t ∧
        t.pc = (if s.readV x = s.readV y then s.pc + 4 else s.pc + 2) ∧ OnlyRegisters [] s t) ∧
    (decode (BitVec.ofNat 16 (0x9000 + x.val * 256 + y.val * 16)) = .skipIfRegistersNotEqual x y ∧
      ∃ t, exec (.skipIfRegistersNotEqual x y) s = .next t ∧
        t.pc = (if s.readV x ≠ s.readV y then s.pc + 4 else s.pc + 2) ∧ OnlyRegisters [] s t)

/-! ## Register and arithmetic (43_register_alu.md) -/

/-- R170, R171: load-immediate gives `V[x]` the immediate; add-immediate the sum modulo 256, with no flag. The words'
numbers are the spec's decision D1 (log entry 15). -/
def Obligations.ImmediateFormsSetOneRegister : Prop :=
  ∀ (s : State) (x : RegIx) (kk : Byte),
    (decode (BitVec.ofNat 16 (0x6000 + x.val * 256 + kk.toNat)) = .loadImmediate x kk ∧
      ∃ t, exec (.loadImmediate x kk) s = .next t ∧ t.readV x = kk ∧ t.pc = s.pc + 2 ∧ OnlyRegisters [x] s t) ∧
    (decode (BitVec.ofNat 16 (0x7000 + x.val * 256 + kk.toNat)) = .addImmediate x kk ∧
      ∃ t, exec (.addImmediate x kk) s = .next t ∧
        (t.readV x).toNat = ((s.readV x).toNat + kk.toNat) % 256 ∧ t.pc = s.pc + 2 ∧ OnlyRegisters [x] s t)

/-- R172 to R175: register-move copies `V[y]`; OR, AND, XOR are bit by bit; no flag is written. The words' numbers are
the spec's decision D1 (log entry 15). -/
def Obligations.MoveAndLogicSetOneRegister : Prop :=
  ∀ (s : State) (x y : RegIx),
    (decode (BitVec.ofNat 16 (0x8000 + x.val * 256 + y.val * 16)) = .registerMove x y ∧
      ∃ t, exec (.registerMove x y) s = .next t ∧ t.readV x = s.readV y ∧ t.pc = s.pc + 2 ∧ OnlyRegisters [x] s t) ∧
    (decode (BitVec.ofNat 16 (0x8001 + x.val * 256 + y.val * 16)) = .registerOr x y ∧
      ∃ t, exec (.registerOr x y) s = .next t ∧
        (∀ k < 8, (t.readV x).getLsbD k = ((s.readV x).getLsbD k || (s.readV y).getLsbD k)) ∧
        t.pc = s.pc + 2 ∧ OnlyRegisters [x] s t) ∧
    (decode (BitVec.ofNat 16 (0x8002 + x.val * 256 + y.val * 16)) = .registerAnd x y ∧
      ∃ t, exec (.registerAnd x y) s = .next t ∧
        (∀ k < 8, (t.readV x).getLsbD k = ((s.readV x).getLsbD k && (s.readV y).getLsbD k)) ∧
        t.pc = s.pc + 2 ∧ OnlyRegisters [x] s t) ∧
    (decode (BitVec.ofNat 16 (0x8003 + x.val * 256 + y.val * 16)) = .registerXor x y ∧
      ∃ t, exec (.registerXor x y) s = .next t ∧
        (∀ k < 8, (t.readV x).getLsbD k = ((s.readV x).getLsbD k ^^ (s.readV y).getLsbD k)) ∧
        t.pc = s.pc + 2 ∧ OnlyRegisters [x] s t)

/-- R178: the sum of the old values modulo 256, VF 1 if the sum exceeds 255 and 0 if not; with `x` = 15 the sum remains in
VF, by the spec's decision D10 (log entry 17). -/
def Obligations.RegisterAddSumsAndCarries : Prop :=
  ∀ (s : State) (x y : RegIx),
    decode (BitVec.ofNat 16 (0x8004 + x.val * 256 + y.val * 16)) = .registerAdd x y ∧
    ∃ t, exec (.registerAdd x y) s = .next t ∧
      (t.readV x).toNat = ((s.readV x).toNat + (s.readV y).toNat) % 256 ∧
      (x ≠ VF → (t.readV VF).toNat = if (s.readV x).toNat + (s.readV y).toNat > 255 then 1 else 0) ∧
      t.pc = s.pc + 2 ∧ OnlyRegisters [x, VF] s t

/-- R179, R181: the difference of the old values modulo 256, `x - y` or `y - x`; VF 1 if the minuend is strictly greater and
0 if not; with `x` = 15 the difference remains in VF, by the spec's decision D10 (log entry 17). -/
def Obligations.SubtractionsCompareStrictly : Prop :=
  ∀ (s : State) (x y : RegIx),
    (decode (BitVec.ofNat 16 (0x8005 + x.val * 256 + y.val * 16)) = .registerSubtract x y ∧
      ∃ t, exec (.registerSubtract x y) s = .next t ∧
        (t.readV x).toNat = ((s.readV x).toNat + 256 - (s.readV y).toNat) % 256 ∧
        (x ≠ VF → (t.readV VF).toNat = if (s.readV x).toNat > (s.readV y).toNat then 1 else 0) ∧
        t.pc = s.pc + 2 ∧ OnlyRegisters [x, VF] s t) ∧
    (decode (BitVec.ofNat 16 (0x8007 + x.val * 256 + y.val * 16)) = .registerSubtractReverse x y ∧
      ∃ t, exec (.registerSubtractReverse x y) s = .next t ∧
        (t.readV x).toNat = ((s.readV y).toNat + 256 - (s.readV x).toNat) % 256 ∧
        (x ≠ VF → (t.readV VF).toNat = if (s.readV y).toNat > (s.readV x).toNat then 1 else 0) ∧
        t.pc = s.pc + 2 ∧ OnlyRegisters [x, VF] s t)

/-- R180, R182: `V[x]` itself shifted by one, whatever `y` is; VF is the bit shifted out; with `x` = 15 the result remains in
VF, by the spec's decision D10 (log entry 17). -/
def Obligations.ShiftsMoveVxByOne : Prop :=
  ∀ (s : State) (x y : RegIx),
    (decode (BitVec.ofNat 16 (0x8006 + x.val * 256 + y.val * 16)) = .shiftRight x y ∧
      ∃ t, exec (.shiftRight x y) s = .next t ∧ (t.readV x).toNat = (s.readV x).toNat / 2 ∧
        (x ≠ VF → (t.readV VF).toNat = (s.readV x).toNat % 2) ∧ t.pc = s.pc + 2 ∧ OnlyRegisters [x, VF] s t) ∧
    (decode (BitVec.ofNat 16 (0x800E + x.val * 256 + y.val * 16)) = .shiftLeft x y ∧
      ∃ t, exec (.shiftLeft x y) s = .next t ∧ (t.readV x).toNat = (s.readV x).toNat * 2 % 256 ∧
        (x ≠ VF → (t.readV VF).toNat = (s.readV x).toNat / 128) ∧ t.pc = s.pc + 2 ∧ OnlyRegisters [x, VF] s t)

/-- R183: random-and gives `V[x]` the random byte AND `kk`, for the free byte of the draw and for whatever byte a draw could
give, so that the result has no bit that `kk` has not. That the byte is `Config.freeByte` at the draw counter, and that the
counter then goes up by 1, is the model's choice (log entry 1). -/
def Obligations.RandomAndMasksTheFreeByte : Prop :=
  ∀ (s : State) (x : RegIx) (kk : Byte),
    decode (BitVec.ofNat 16 (0xC000 + x.val * 256 + kk.toNat)) = .randomAnd x kk ∧
    (∃ t, exec (.randomAnd x kk) s = .next t ∧
      (∀ k < 8, (t.readV x).getLsbD k = ((Config.freeByte s.draws).getLsbD k && kk.getLsbD k)) ∧
      (t.readV x).toNat ≤ kk.toNat ∧ t.pc = s.pc + 2 ∧ SameRegsBut [x] s t ∧ SameIndex s t ∧ SameStack s t ∧
      SameTimers s t ∧ SameMem s t ∧ SameFb s t ∧ t.keys = s.keys ∧ t.draws = s.draws + 1) ∧
    ∀ rnd : Byte, (randomAndWith rnd x kk s).readV x = rnd &&& kk ∧ ((randomAndWith rnd x kk s).readV x).toNat ≤ kk.toNat

/-! ## Index register and memory (44_index_memory.md) -/

/-- R200, R202, R203: load-index sets `I` to `addr`; add-to-index adds `V[x]` modulo 65536; load-glyph-address sets `I` to
5 times the whole of `V[x]`; no flag, no memory access. The wrap at 65536 is the spec's decision D11 (log entry 24). -/
def Obligations.IndexInstructionsSetI : Prop :=
  ∀ (s : State) (addr : BitVec 12) (x : RegIx),
    (decode (BitVec.ofNat 16 (0xA000 + addr.toNat)) = .loadIndex addr ∧
      ∃ t, exec (.loadIndex addr) s = .next t ∧ t.index.toNat = addr.toNat ∧ t.pc = s.pc + 2 ∧
        SameRegsBut [] s t ∧ SameStack s t ∧ SameTimers s t ∧ SameMem s t ∧ SameFb s t ∧ SameInputs s t) ∧
    (decode (BitVec.ofNat 16 (0xF01E + x.val * 256)) = .addToIndex x ∧
      ∃ t, exec (.addToIndex x) s = .next t ∧
        t.index.toNat = (s.index.toNat + (s.readV x).toNat) % 65536 ∧ t.pc = s.pc + 2 ∧
        SameRegsBut [] s t ∧ SameStack s t ∧ SameTimers s t ∧ SameMem s t ∧ SameFb s t ∧ SameInputs s t) ∧
    (decode (BitVec.ofNat 16 (0xF029 + x.val * 256)) = .loadGlyphAddress x ∧
      ∃ t, exec (.loadGlyphAddress x) s = .next t ∧ t.index.toNat = (s.readV x).toNat * 5 ∧ t.pc = s.pc + 2 ∧
        SameRegsBut [] s t ∧ SameStack s t ∧ SameTimers s t ∧ SameMem s t ∧ SameFb s t ∧ SameInputs s t)

/-- R204: hundreds, tens and units of `V[x]` at `I`, `I + 1`, `I + 2`, one byte each, where `I + 2` is at most 4095; otherwise
`OutOfBounds` and nothing written (decision D8, log entry 8). -/
def Obligations.StoreBcdWritesThreeDigits : Prop :=
  ∀ (s : State) (x : RegIx),
    decode (BitVec.ofNat 16 (0xF033 + x.val * 256)) = .storeBcd x ∧
    (s.base + 2 ≤ 4095 → ∃ t, exec (.storeBcd x) s = .next t ∧
      (t.mem.read s.base).toNat = (s.readV x).toNat / 100 ∧
      (t.mem.read (s.base + 1)).toNat = (s.readV x).toNat / 10 % 10 ∧
      (t.mem.read (s.base + 2)).toNat = (s.readV x).toNat % 10 ∧ t.pc = s.pc + 2 ∧ SameMemOutside s.base 3 s t ∧
      SameRegsBut [] s t ∧ SameIndex s t ∧ SameStack s t ∧ SameTimers s t ∧ SameFb s t ∧ SameInputs s t) ∧
    (s.base + 2 > 4095 → exec (.storeBcd x) s = .fault (.outOfBounds (max s.base 4096)))

/-- R206: `V[0]` to `V[x]` at `I` to `I + x`, where `I + x` is at most 4095; otherwise `OutOfBounds` and nothing written.
`I` and the registers keep their values. The fault is the spec's decision D8 (log entry 8). -/
def Obligations.RegisterDumpStoresTheBlock : Prop :=
  ∀ (s : State) (x : RegIx),
    decode (BitVec.ofNat 16 (0xF055 + x.val * 256)) = .registerDump x ∧
    (s.base + x.val ≤ 4095 → ∃ t, exec (.registerDump x) s = .next t ∧
      (∀ j : RegIx, j ≤ x → t.mem.read (s.base + j.val) = s.readV j) ∧ t.pc = s.pc + 2 ∧
      SameMemOutside s.base (x.val + 1) s t ∧ SameRegsBut [] s t ∧ SameIndex s t ∧ SameStack s t ∧ SameTimers s t ∧
      SameFb s t ∧ SameInputs s t) ∧
    (s.base + x.val > 4095 → exec (.registerDump x) s = .fault (.outOfBounds (max s.base 4096)))

/-- R208: `V[0]` to `V[x]` from the bytes at `I` to `I + x`, where `I + x` is at most 4095; otherwise `OutOfBounds` and nothing
loaded. `I`, memory and the registers above `x` keep their values. The fault is the spec's decision D8 (log entry 8). -/
def Obligations.RegisterLoadReadsTheBlock : Prop :=
  ∀ (s : State) (x : RegIx),
    decode (BitVec.ofNat 16 (0xF065 + x.val * 256)) = .registerLoad x ∧
    (s.base + x.val ≤ 4095 → ∃ t, exec (.registerLoad x) s = .next t ∧
      (∀ j : RegIx, j ≤ x → t.readV j = s.mem.read (s.base + j.val)) ∧
      (∀ j : RegIx, x < j → t.readV j = s.readV j) ∧ t.pc = s.pc + 2 ∧ SameMem s t ∧ SameIndex s t ∧ SameStack s t ∧
      SameTimers s t ∧ SameFb s t ∧ SameInputs s t) ∧
    (s.base + x.val > 4095 → exec (.registerLoad x) s = .fault (.outOfBounds (max s.base 4096)))

/-- A register-load after a register-dump of the same block, with `I` and the stored bytes kept between, brings the dumped
registers back whatever they hold by then (R206, R208, R209). -/
def Obligations.LoadAfterDumpRestores : Prop :=
  ∀ (s t m : State) (x : RegIx), exec (.registerDump x) s = .next t → m.index = t.index → SameMem t m →
    ∃ u, exec (.registerLoad x) m = .next u ∧ ∀ j : RegIx, j ≤ x → u.readV j = s.readV j

/-! ## Keypad and timers (45_keypad_timers.md) -/

/-- R220 to R222: with `V[x]` at most 15, the key skips advance by 4 or 2 by the level of that key, and change nothing else;
with `V[x]` above 15 they fault with `KeyIndexOutOfRange(V[x])`, by the spec's decision D9 (log entry 18). -/
def Obligations.KeySkipsReadOneKey : Prop :=
  ∀ (s : State) (x : RegIx),
    decode (BitVec.ofNat 16 (0xE09E + x.val * 256)) = .skipIfKeyPressed x ∧
    decode (BitVec.ofNat 16 (0xE0A1 + x.val * 256)) = .skipIfKeyNotPressed x ∧
    (∀ k : KeyIx, (s.readV x).toNat = k.val →
      (∃ t, exec (.skipIfKeyPressed x) s = .next t ∧
        t.pc = (if s.keys[k] = true then s.pc + 4 else s.pc + 2) ∧ OnlyRegisters [] s t) ∧
      (∃ t, exec (.skipIfKeyNotPressed x) s = .next t ∧
        t.pc = (if s.keys[k] = false then s.pc + 4 else s.pc + 2) ∧ OnlyRegisters [] s t)) ∧
    ((s.readV x).toNat > 15 →
      exec (.skipIfKeyPressed x) s = .fault (.keyIndexOutOfRange (s.readV x)) ∧
      exec (.skipIfKeyNotPressed x) s = .fault (.keyIndexOutOfRange (s.readV x)))

/-- R224: with a key pressed, wait-for-key gives `V[x]` the least pressed one and advances; with none pressed it changes
nothing, not even `pc`, and the timers tick as in any step. The word's number is the spec's decision D1
(log entry 15). -/
def Obligations.WaitForKeyPollsTheLeastKey : Prop :=
  ∀ (s : State) (x : RegIx),
    decode (BitVec.ofNat 16 (0xF00A + x.val * 256)) = .waitForKey x ∧
    (∀ k : KeyIx, s.keys[k] = true → (∀ j : KeyIx, j < k → s.keys[j] = false) →
      ∃ t, exec (.waitForKey x) s = .next t ∧ (t.readV x).toNat = k.val ∧ t.pc = s.pc + 2 ∧ OnlyRegisters [x] s t) ∧
    ((∀ k : KeyIx, s.keys[k] = false) →
      (∃ t, exec (.waitForKey x) s = .next t ∧ t.pc = s.pc ∧ OnlyRegisters [] s t) ∧
      (FetchesInstr s (.waitForKey x) → ∃ u, step s = .next u ∧ FetchesInstr u (.waitForKey x) ∧
        u.dt.toNat = s.dt.toNat - 1 ∧ u.st.toNat = s.st.toNat - 1))

/-- R225, R226, R227: read-delay-timer gives `V[x]` the value before the step's tick; the set instructions copy `V[x]` to
their timer, which the tick of the same step lowers by 1. The words' numbers are the spec's decision D1 (log entry 15). -/
def Obligations.TimerInstructionsAndTheirTick : Prop :=
  ∀ (s : State) (x : RegIx),
    (decode (BitVec.ofNat 16 (0xF007 + x.val * 256)) = .readDelayTimer x ∧
      (∃ t, exec (.readDelayTimer x) s = .next t ∧ t.readV x = s.dt ∧ t.pc = s.pc + 2 ∧ OnlyRegisters [x] s t) ∧
      (FetchesInstr s (.readDelayTimer x) →
        ∃ u, step s = .next u ∧ u.readV x = s.dt ∧ u.dt.toNat = s.dt.toNat - 1)) ∧
    (decode (BitVec.ofNat 16 (0xF015 + x.val * 256)) = .setDelayTimer x ∧
      (∃ t, exec (.setDelayTimer x) s = .next t ∧ t.dt = s.readV x ∧ t.st = s.st ∧ t.pc = s.pc + 2 ∧
        SameRegsBut [] s t ∧ SameIndex s t ∧ SameStack s t ∧ SameMem s t ∧ SameFb s t ∧ SameInputs s t) ∧
      (FetchesInstr s (.setDelayTimer x) → ∃ u, step s = .next u ∧ u.dt.toNat = (s.readV x).toNat - 1)) ∧
    (decode (BitVec.ofNat 16 (0xF018 + x.val * 256)) = .setSoundTimer x ∧
      (∃ t, exec (.setSoundTimer x) s = .next t ∧ t.st = s.readV x ∧ t.dt = s.dt ∧ t.pc = s.pc + 2 ∧
        SameRegsBut [] s t ∧ SameIndex s t ∧ SameStack s t ∧ SameMem s t ∧ SameFb s t ∧ SameInputs s t) ∧
      (FetchesInstr s (.setSoundTimer x) → ∃ u, step s = .next u ∧ u.st.toNat = (s.readV x).toNat - 1))

/-! ## Host transactions and reset (70_reset_and_hazards.md, 10_state.md) -/

/-- R281: what `reset()` writes and what it leaves alone, for any glyph table. What it leaves alone is the spec's decision
D13. -/
def Obligations.ResetWritesAndLeaves : Prop :=
  ∀ (g : GlyphTable) (s : State),
    (∀ j : RegIx, (hostReset g s).readV j = 0) ∧ (hostReset g s).pc.toNat = 0x200 ∧ (hostReset g s).index = 0 ∧
    (∀ j : Fin 16, (hostReset g s).stack[j] = 0) ∧ (hostReset g s).sp.val = 0 ∧ (hostReset g s).dt = 0 ∧
    (hostReset g s).st = 0 ∧
    (∀ (d : Fin 16) (k : Fin 5), (hostReset g s).mem.read (5 * d.val + k.val) = g[d][k]) ∧
    (∀ a : Nat, 80 ≤ a → (hostReset g s).mem.read a = s.mem.read a) ∧
    (hostReset g s).fb = s.fb ∧ (hostReset g s).keys = s.keys

/-- R287: calling `reset()` twice gives the state that calling it once gives, and calling it at once after power-on changes
nothing, whatever the open power-on values are. That everything `reset()` writes powers on with its reset value is R48's
reading, and the rest being open its decision D14 (log entry 11). -/
def Obligations.ResetIsIdempotent : Prop :=
  (∀ (g : GlyphTable) (s : State), s.mem.wf = true → hostReset g (hostReset g s) = hostReset g s) ∧
  (∀ (g : GlyphTable) (m : Memory) (f : Framebuffer) (k : Keypad), m.wf = true →
    hostReset g (powerOn g m f k) = powerOn g m f k)

/-- R283, R284: `load` of at most 3584 bytes writes them from `0x200` on and changes nothing else; a longer sequence is
refused and nothing is written (the spec's decision D17). -/
def Obligations.LoadIsAllOrNothing : Prop :=
  ∀ (g : GlyphTable) (s : State) (bytes : List Byte),
    (bytes.length ≤ 3584 → ∃ t, perform g (.load bytes) s = (t, .ok) ∧
      (∀ k : Fin bytes.length, t.mem.read (0x200 + k.val) = bytes[k]) ∧ SameMemOutside 0x200 bytes.length s t ∧
      t.pc = s.pc ∧ SameRegsBut [] s t ∧ SameIndex s t ∧ SameStack s t ∧ SameTimers s t ∧ SameFb s t ∧
      SameInputs s t) ∧
    (bytes.length > 3584 → perform g (.load bytes) s = (s, .romTooLarge))

/-- R44, R45: `set_key` writes its one key of the latch and nothing else; `framebuffer()` shows the 2048 cells in row-major
order as 0 or 1 (the spec's decision D23), and `sound_timer()` shows `ST`. -/
def Obligations.HostPorts : Prop :=
  ∀ (g : GlyphTable) (s : State),
    (∀ (k : KeyIx) (pressed : Bool), ∃ t, perform g (.setKey k pressed) s = (t, .ok) ∧ t.keys[k] = pressed ∧
      (∀ j : KeyIx, j ≠ k → t.keys[j] = s.keys[j]) ∧ { t with keys := s.keys } = s) ∧
    (framebufferPort s).length = 2048 ∧
    (∀ (r : Row) (c : Col), ((framebufferPort s)[r.val * 64 + c.val]?).map BitVec.toNat =
      some (if s.fb.cell r c then 1 else 0)) ∧
    soundTimerPort s = s.st

/-- The state after reset holds the values R47 states: registers, `I`, stack, `SP` and timers 0, `pc` at `0x200`, the default
glyph table at 0 to 79. That the table is the default one is the model's choice (log entry 7); what R47 leaves unchanged is
the model's choice too (log entries 4, 5, 6) and is not stated. -/
def Obligations.ResetStateValues : Prop :=
  (∀ j : RegIx, State.reset.readV j = 0) ∧ State.reset.pc.toNat = 0x200 ∧ State.reset.index = 0 ∧
  (∀ j : Fin 16, State.reset.stack[j] = 0) ∧ State.reset.sp.val = 0 ∧ State.reset.dt = 0 ∧ State.reset.st = 0 ∧
  (∀ (d : Fin 16) (k : Fin 5), State.reset.mem.read (5 * d.val + k.val) = defaultGlyphTable[d][k]) ∧
  hostReset defaultGlyphTable State.reset = State.reset

/-! ## Invariants -/

/-- The invariant holds at power-on, whatever the glyph table and the open values are, given a canonical initial memory; and
of the reset state. -/
def Obligations.InvariantAtPowerOn : Prop :=
  State.reset.Inv ∧
  ∀ (g : GlyphTable) (m : Memory) (f : Framebuffer) (k : Keypad), m.wf = true → (powerOn g m f k).Inv

/-- Every step keeps the invariant: memory canonical, `pc` in 0 to 4350, every link in use at most 4094 (R24(d), R60,
R150). -/
def Obligations.StepKeepsInvariant : Prop :=
  ∀ s t : State, s.Inv → step s = .next t → t.Inv

/-- Every transaction of the host keeps the invariant, from every state that has it; so it holds in every state that a run
reaches, by any sequence of transactions from power-on with any open values. A fetch fault in a state with the invariant
reports an address from 4096 to 4350 (R24(d)). Power-on is as R48 reads it (log entry 11); that the links are addresses of
calls and return adds 2 is the spec's decision D4 (log entry 20), the reported address its decision D6 (log entry 10). -/
def Obligations.EveryRunKeepsInvariant : Prop :=
  (∀ (g : GlyphTable) (t : Transaction) (s : State), s.Inv → (perform g t s).1.Inv) ∧
  (∀ (g : GlyphTable) (m : Memory) (f : Framebuffer) (k : Keypad) (ts : List Transaction), m.wf = true →
    (runTransactions g ts (powerOn g m f k)).Inv) ∧
  ∀ s : State, s.Inv → s.pc.toNat + 1 > 4095 →
    ∃ a, step s = .fault (.outOfBounds a) ∧ 4096 ≤ a ∧ a ≤ 4350

/-- Two canonical memories that read alike at every address are the same data, and writing a byte that an address already
reads as changes nothing: the form hides no state. -/
def Obligations.CanonicalMemoriesAreExtensional : Prop :=
  (∀ m n : Memory, m.wf = true → n.wf = true → (∀ a, m.read a = n.read a) → m = n) ∧
  (∀ (m : Memory) (a : Nat), m.wf = true → a < 4096 → m.write a (m.read a) = m)
end

