-- ==== Sys2Proof/Laws/Decode.lean ====
section
/-! SUPPORT. The laws of the encoding: the fields of a word as numbers, the fields of each format, and the word put
together again from its fields or its bytes. -/

namespace Sys2Proof

/-! ## Fields as numbers -/

theorem toNat_fieldOp (w : Word) : (fieldOp w).toNat = w.toNat / 4096 := by
  simp only [fieldOp, BitVec.extractLsb'_toNat, Nat.shiftRight_eq_div_pow]
  have := w.isLt
  omega

theorem val_fieldX (w : Word) : (fieldX w).val = w.toNat / 256 % 16 := by
  simp [fieldX, Nat.shiftRight_eq_div_pow]

theorem val_fieldY (w : Word) : (fieldY w).val = w.toNat / 16 % 16 := by
  simp [fieldY, Nat.shiftRight_eq_div_pow]

theorem toNat_fieldN (w : Word) : (fieldN w).toNat = w.toNat % 16 := by
  simp [fieldN, BitVec.extractLsb'_toNat]

theorem toNat_fieldKk (w : Word) : (fieldKk w).toNat = w.toNat % 256 := by
  simp [fieldKk, BitVec.extractLsb'_toNat]

theorem toNat_fieldAddr (w : Word) : (fieldAddr w).toNat = w.toNat % 4096 := by
  simp [fieldAddr, BitVec.extractLsb'_toNat]

/-! ## Words as numbers -/

theorem toNat_wordOfBytes (hi lo : Byte) : (wordOfBytes hi lo).toNat = hi.toNat * 256 + lo.toNat := by
  have := lo.isLt
  simp only [wordOfBytes, BitVec.toNat_append, Nat.shiftLeft_eq]
  rw [← Nat.shiftLeft_eq, ← Nat.shiftLeft_add_eq_or_of_lt this, Nat.shiftLeft_eq]

theorem toNat_formatA (op : BitVec 4) (addr : BitVec 12) :
    (formatA op addr).toNat = op.toNat * 4096 + addr.toNat := by
  have := addr.isLt
  simp only [formatA, BitVec.toNat_append]
  rw [← Nat.shiftLeft_add_eq_or_of_lt this, Nat.shiftLeft_eq]

theorem toNat_formatXK (op : BitVec 4) (x : RegIx) (kk : Byte) :
    (formatXK op x kk).toNat = op.toNat * 4096 + x.val * 256 + kk.toNat := by
  have := kk.isLt
  have hx : (BitVec.ofFin x : BitVec 4).toNat < 2 ^ 4 := x.isLt
  simp only [formatXK, BitVec.toNat_append]
  rw [← Nat.shiftLeft_add_eq_or_of_lt this, ← Nat.shiftLeft_add_eq_or_of_lt hx, Nat.shiftLeft_eq,
    Nat.shiftLeft_eq]
  simp only [BitVec.toNat_ofFin]
  omega

theorem toNat_formatXYN (op : BitVec 4) (x y : RegIx) (n : BitVec 4) :
    (formatXYN op x y n).toNat = op.toNat * 4096 + x.val * 256 + y.val * 16 + n.toNat := by
  have := n.isLt
  have hx : (BitVec.ofFin x : BitVec 4).toNat < 2 ^ 4 := x.isLt
  have hy : (BitVec.ofFin y : BitVec 4).toNat < 2 ^ 4 := y.isLt
  simp only [formatXYN, BitVec.toNat_append]
  rw [← Nat.shiftLeft_add_eq_or_of_lt this, ← Nat.shiftLeft_add_eq_or_of_lt hy,
    ← Nat.shiftLeft_add_eq_or_of_lt hx, Nat.shiftLeft_eq, Nat.shiftLeft_eq, Nat.shiftLeft_eq]
  simp only [BitVec.toNat_ofFin]
  omega

/-! ## Fields of the formats -/

@[simp] theorem fieldOp_formatA (op : BitVec 4) (addr : BitVec 12) : fieldOp (formatA op addr) = op := by
  apply BitVec.eq_of_toNat_eq
  have := addr.isLt
  rw [toNat_fieldOp, toNat_formatA]
  omega

@[simp] theorem fieldAddr_formatA (op : BitVec 4) (addr : BitVec 12) : fieldAddr (formatA op addr) = addr := by
  apply BitVec.eq_of_toNat_eq
  have := addr.isLt
  rw [toNat_fieldAddr, toNat_formatA]
  omega

@[simp] theorem fieldOp_formatXK (op : BitVec 4) (x : RegIx) (kk : Byte) : fieldOp (formatXK op x kk) = op := by
  apply BitVec.eq_of_toNat_eq
  have := kk.isLt
  have := x.isLt
  rw [toNat_fieldOp, toNat_formatXK]
  omega

@[simp] theorem fieldX_formatXK (op : BitVec 4) (x : RegIx) (kk : Byte) : fieldX (formatXK op x kk) = x := by
  apply Fin.ext
  have := kk.isLt
  have := x.isLt
  rw [val_fieldX, toNat_formatXK]
  omega

@[simp] theorem fieldKk_formatXK (op : BitVec 4) (x : RegIx) (kk : Byte) : fieldKk (formatXK op x kk) = kk := by
  apply BitVec.eq_of_toNat_eq
  have := kk.isLt
  rw [toNat_fieldKk, toNat_formatXK]
  omega

@[simp] theorem fieldOp_formatXYN (op : BitVec 4) (x y : RegIx) (n : BitVec 4) :
    fieldOp (formatXYN op x y n) = op := by
  apply BitVec.eq_of_toNat_eq
  have := n.isLt
  have := x.isLt
  have := y.isLt
  rw [toNat_fieldOp, toNat_formatXYN]
  omega

@[simp] theorem fieldX_formatXYN (op : BitVec 4) (x y : RegIx) (n : BitVec 4) :
    fieldX (formatXYN op x y n) = x := by
  apply Fin.ext
  have := n.isLt
  have := x.isLt
  have := y.isLt
  rw [val_fieldX, toNat_formatXYN]
  omega

@[simp] theorem fieldY_formatXYN (op : BitVec 4) (x y : RegIx) (n : BitVec 4) :
    fieldY (formatXYN op x y n) = y := by
  apply Fin.ext
  have := n.isLt
  have := y.isLt
  rw [val_fieldY, toNat_formatXYN]
  omega

@[simp] theorem fieldN_formatXYN (op : BitVec 4) (x y : RegIx) (n : BitVec 4) :
    fieldN (formatXYN op x y n) = n := by
  apply BitVec.eq_of_toNat_eq
  have := n.isLt
  rw [toNat_fieldN, toNat_formatXYN]
  omega

/-! ## A word from its parts -/

theorem formatA_fields (w : Word) : formatA (fieldOp w) (fieldAddr w) = w := by
  apply BitVec.eq_of_toNat_eq
  rw [toNat_formatA, toNat_fieldOp, toNat_fieldAddr]
  omega

theorem formatXK_fields (w : Word) : formatXK (fieldOp w) (fieldX w) (fieldKk w) = w := by
  apply BitVec.eq_of_toNat_eq
  rw [toNat_formatXK, toNat_fieldOp, val_fieldX, toNat_fieldKk]
  omega

theorem formatXYN_fields (w : Word) : formatXYN (fieldOp w) (fieldX w) (fieldY w) (fieldN w) = w := by
  apply BitVec.eq_of_toNat_eq
  rw [toNat_formatXYN, toNat_fieldOp, val_fieldX, val_fieldY, toNat_fieldN]
  omega

theorem toNat_highByte (w : Word) : (highByte w).toNat = w.toNat / 256 := by
  simp only [highByte, BitVec.extractLsb'_toNat, Nat.shiftRight_eq_div_pow]
  have := w.isLt
  omega

theorem toNat_lowByte (w : Word) : (lowByte w).toNat = w.toNat % 256 := by
  simp [lowByte, BitVec.extractLsb'_toNat]

@[simp] theorem wordOfBytes_bytes (w : Word) : wordOfBytes (highByte w) (lowByte w) = w := by
  apply BitVec.eq_of_toNat_eq
  rw [toNat_wordOfBytes, toNat_highByte, toNat_lowByte]
  omega

@[simp] theorem highByte_wordOfBytes (hi lo : Byte) : highByte (wordOfBytes hi lo) = hi := by
  apply BitVec.eq_of_toNat_eq
  have := lo.isLt
  rw [toNat_highByte, toNat_wordOfBytes]
  omega

@[simp] theorem lowByte_wordOfBytes (hi lo : Byte) : lowByte (wordOfBytes hi lo) = lo := by
  apply BitVec.eq_of_toNat_eq
  have := lo.isLt
  rw [toNat_lowByte, toNat_wordOfBytes]
  omega

/-- The byte decoder reads the word of its two bytes and gives the rest back. -/
@[simp] theorem decodeBytes_cons (hi lo : Byte) (rest : List Byte) :
    decodeBytes (hi :: lo :: rest) = .ok (decode (wordOfBytes hi lo), rest) := rfl

@[simp] theorem decodeTableWord_eq (nbits w : Nat) :
    decodeTableWord nbits w = some (decode (tableWord nbits w)) := by
  simp [decodeTableWord]

end Sys2Proof
end

