-- ==== Sys2Proof/Laws/Memory.lean ====
section
/-! SUPPORT. The laws of memory: what a byte reads after a write, and that every operation keeps the canonical form. The
read laws hold of every list of cells, canonical or not. -/

namespace Sys2Proof.Machine

/-! ## Reading after writing -/

theorem Memory.lookup_insert (m : Memory) (a b : Nat) (u : Byte) :
    Memory.lookup b (Memory.insert a u m) = if b = a then some u else Memory.lookup b m := by
  induction m with
  | nil => simp [Memory.insert, Memory.lookup]
  | cons c m ih =>
    obtain ⟨k, t⟩ := c
    simp only [Memory.insert]
    split
    · simp only [Memory.lookup]
    · split
      · subst_vars
        simp only [Memory.lookup]
        split <;> rfl
      · simp only [Memory.lookup, ih]
        split
        · next h1 h2 h3 => rw [if_neg (by omega)]
        · rfl

theorem Memory.lookup_erase (m : Memory) (a b : Nat) :
    Memory.lookup b (Memory.erase a m) = if b = a then none else Memory.lookup b m := by
  induction m with
  | nil => simp [Memory.erase, Memory.lookup]
  | cons c m ih =>
    obtain ⟨k, t⟩ := c
    simp only [Memory.erase] at ih ⊢
    by_cases hk : k = a
    · subst hk
      simp only [List.filter_cons, bne_self_eq_false, Bool.false_eq_true, if_false, ih, Memory.lookup]
      split <;> rfl
    · simp only [List.filter_cons, bne_iff_ne, ne_eq, hk, not_false_eq_true, if_true, Memory.lookup, ih]
      split
      · next h => rw [if_neg (by omega)]
      · rfl

@[simp] theorem Memory.read_write (m : Memory) (a b : Nat) (u : Byte) :
    (m.write a u).read b = if b = a then u else m.read b := by
  simp only [Memory.read, Memory.write]
  split
  · next h =>
    simp only [Memory.lookup_erase]
    split
    · next hb => simp [hb, h]
    · rfl
  · simp only [Memory.lookup_insert]
    split <;> rfl

theorem Memory.read_write_same (m : Memory) (a : Nat) (u : Byte) : (m.write a u).read a = u := by simp

theorem Memory.read_write_other (m : Memory) {a b : Nat} (u : Byte) (h : b ≠ a) :
    (m.write a u).read b = m.read b := by simp [h]

/-- What a byte reads after a run of bytes is written from `a` on: the byte written there, or what it read before. -/
theorem Memory.read_writeBytes (us : List Byte) : ∀ (m : Memory) (a b : Nat),
    (m.writeBytes a us).read b =
      if h : a ≤ b ∧ b < a + us.length then us[b - a]'(by omega) else m.read b := by
  induction us with
  | nil => intro m a b; simp [Memory.writeBytes]
  | cons u us ih =>
    intro m a b
    rw [Memory.writeBytes, ih, Memory.read_write]
    by_cases hb : b = a
    · subst hb
      simp
    · by_cases h : a + 1 ≤ b ∧ b < a + 1 + us.length
      · have h' : a ≤ b ∧ b < a + (u :: us).length := by simp; omega
        have e : b - a = (b - (a + 1)) + 1 := by omega
        rw [dif_pos h, dif_pos h']
        simp [e]
      · have h' : ¬(a ≤ b ∧ b < a + (u :: us).length) := by simp; omega
        rw [dif_neg h, dif_neg h', if_neg hb]

theorem Memory.read_writeBytes_outside (us : List Byte) (m : Memory) {a b : Nat}
    (h : ¬(a ≤ b ∧ b < a + us.length)) : (m.writeBytes a us).read b = m.read b := by
  rw [Memory.read_writeBytes, dif_neg h]

@[simp] theorem Memory.length_readBytes (m : Memory) (a n : Nat) : (m.readBytes a n).length = n := by
  induction n generalizing a with
  | zero => rfl
  | succ n ih => simp [Memory.readBytes, ih]

theorem Memory.getElem_readBytes (m : Memory) (a n k : Nat) (h : k < (m.readBytes a n).length) :
    (m.readBytes a n)[k] = m.read (a + k) := by
  induction n generalizing a k with
  | zero => simp [Memory.readBytes] at h
  | succ n ih =>
    cases k with
    | zero => simp [Memory.readBytes]
    | succ k =>
      simp only [Memory.readBytes, List.getElem_cons_succ]
      rw [ih]
      congr 1
      omega

/-! ## The canonical form -/

theorem Memory.rising_weaken {m : Memory} {l k : Nat} (h : Memory.rising k m = true) (hl : l ≤ k) :
    Memory.rising l m = true := by
  cases m with
  | nil => rfl
  | cons c m =>
    simp only [Memory.rising, Bool.and_eq_true, decide_eq_true_eq] at h ⊢
    exact ⟨by omega, h.2⟩

theorem Memory.rising_insert (a : Nat) (u : Byte) (m : Memory) : ∀ l, l ≤ a → Memory.rising l m = true →
    Memory.rising l (Memory.insert a u m) = true := by
  induction m with
  | nil => intro l hl _; simp [Memory.insert, Memory.rising, hl]
  | cons c m ih =>
    obtain ⟨k, t⟩ := c
    intro l hl h
    simp only [Memory.rising, Bool.and_eq_true, decide_eq_true_eq] at h
    simp only [Memory.insert]
    split
    · simp only [Memory.rising, Bool.and_eq_true, decide_eq_true_eq]
      exact ⟨hl, by omega, h.2⟩
    · split
      · subst_vars
        simp only [Memory.rising, Bool.and_eq_true, decide_eq_true_eq]
        exact ⟨hl, h.2⟩
      · simp only [Memory.rising, Bool.and_eq_true, decide_eq_true_eq]
        exact ⟨h.1, ih (k + 1) (by omega) h.2⟩

theorem Memory.rising_erase (a : Nat) (m : Memory) : ∀ l, Memory.rising l m = true →
    Memory.rising l (Memory.erase a m) = true := by
  induction m with
  | nil => intro l _; rfl
  | cons c m ih =>
    obtain ⟨k, t⟩ := c
    intro l h
    simp only [Memory.rising, Bool.and_eq_true, decide_eq_true_eq] at h
    simp only [Memory.erase, List.filter_cons]
    split
    · simp only [Memory.rising, Bool.and_eq_true, decide_eq_true_eq]
      exact ⟨h.1, ih (k + 1) h.2⟩
    · exact Memory.rising_weaken (ih (k + 1) h.2) (by omega)

theorem Memory.mem_insert {c : Host.Cell} {a : Nat} {u : Byte} {m : Memory} (h : c ∈ Memory.insert a u m) :
    c = (a, u) ∨ c ∈ m := by
  induction m with
  | nil => simpa [Memory.insert] using h
  | cons k m ih =>
    obtain ⟨k, t⟩ := k
    simp only [Memory.insert] at h
    split at h
    · simpa using h
    · split at h
      · rcases List.mem_cons.1 h with h | h <;> simp [h]
      · rcases List.mem_cons.1 h with h | h
        · simp [h]
        · rcases ih h with h | h <;> simp [h]

/-- Writing a byte of the address space keeps the canonical form. -/
theorem Memory.wf_write {m : Memory} (h : m.wf = true) {a : Nat} (ha : a < 4096) (u : Byte) :
    (m.write a u).wf = true := by
  simp only [Memory.wf, Bool.and_eq_true, List.all_eq_true] at h ⊢
  simp only [Memory.write]
  split
  · exact ⟨Memory.rising_erase a m 0 h.1, fun c hc => h.2 c (List.mem_of_mem_filter hc)⟩
  · next hu =>
    refine ⟨Memory.rising_insert a u m 0 (Nat.zero_le _) h.1, fun c hc => ?_⟩
    rcases Memory.mem_insert hc with rfl | hc
    · simp [ha, hu]
    · exact h.2 c hc

/-- Writing a run of bytes of the address space keeps the canonical form. -/
theorem Memory.wf_writeBytes (us : List Byte) : ∀ {m : Memory} {a : Nat}, m.wf = true → a + us.length ≤ 4096 →
    (m.writeBytes a us).wf = true := by
  induction us with
  | nil => intro m a h _; exact h
  | cons u us ih =>
    intro m a h hl
    simp only [List.length_cons] at hl
    exact ih (Memory.wf_write h (by omega) u) (by omega)

@[simp] theorem Memory.wf_nil : Memory.wf [] = true := rfl

end Sys2Proof.Machine
end

