-- ==== Sys2Proof/Laws/State.lean ====
section
/-! SUPPORT. One lemma per field per update of the state, so that no proof unfolds a record update; and what a register
reads after a write. -/

namespace Sys2Proof.Machine

variable (s : State)

/-! ### writeV -/

@[simp] theorem State.writeV_v (x : RegIx) (b : Byte) : (s.writeV x b).v = s.v.set x b := rfl
@[simp] theorem State.writeV_pc (x : RegIx) (b : Byte) : (s.writeV x b).pc = s.pc := rfl
@[simp] theorem State.writeV_index (x : RegIx) (b : Byte) : (s.writeV x b).index = s.index := rfl
@[simp] theorem State.writeV_stack (x : RegIx) (b : Byte) : (s.writeV x b).stack = s.stack := rfl
@[simp] theorem State.writeV_sp (x : RegIx) (b : Byte) : (s.writeV x b).sp = s.sp := rfl
@[simp] theorem State.writeV_dt (x : RegIx) (b : Byte) : (s.writeV x b).dt = s.dt := rfl
@[simp] theorem State.writeV_st (x : RegIx) (b : Byte) : (s.writeV x b).st = s.st := rfl
@[simp] theorem State.writeV_mem (x : RegIx) (b : Byte) : (s.writeV x b).mem = s.mem := rfl
@[simp] theorem State.writeV_fb (x : RegIx) (b : Byte) : (s.writeV x b).fb = s.fb := rfl
@[simp] theorem State.writeV_keys (x : RegIx) (b : Byte) : (s.writeV x b).keys = s.keys := rfl
@[simp] theorem State.writeV_draws (x : RegIx) (b : Byte) : (s.writeV x b).draws = s.draws := rfl

/-! ### setRegs -/

@[simp] theorem State.setRegs_v (w : Vector Byte 16) : (s.setRegs w).v = w := rfl
@[simp] theorem State.setRegs_pc (w : Vector Byte 16) : (s.setRegs w).pc = s.pc := rfl
@[simp] theorem State.setRegs_index (w : Vector Byte 16) : (s.setRegs w).index = s.index := rfl
@[simp] theorem State.setRegs_stack (w : Vector Byte 16) : (s.setRegs w).stack = s.stack := rfl
@[simp] theorem State.setRegs_sp (w : Vector Byte 16) : (s.setRegs w).sp = s.sp := rfl
@[simp] theorem State.setRegs_dt (w : Vector Byte 16) : (s.setRegs w).dt = s.dt := rfl
@[simp] theorem State.setRegs_st (w : Vector Byte 16) : (s.setRegs w).st = s.st := rfl
@[simp] theorem State.setRegs_mem (w : Vector Byte 16) : (s.setRegs w).mem = s.mem := rfl
@[simp] theorem State.setRegs_fb (w : Vector Byte 16) : (s.setRegs w).fb = s.fb := rfl
@[simp] theorem State.setRegs_keys (w : Vector Byte 16) : (s.setRegs w).keys = s.keys := rfl
@[simp] theorem State.setRegs_draws (w : Vector Byte 16) : (s.setRegs w).draws = s.draws := rfl

/-! ### setPc -/

@[simp] theorem State.setPc_v (p : Word) : (s.setPc p).v = s.v := rfl
@[simp] theorem State.setPc_pc (p : Word) : (s.setPc p).pc = p := rfl
@[simp] theorem State.setPc_index (p : Word) : (s.setPc p).index = s.index := rfl
@[simp] theorem State.setPc_stack (p : Word) : (s.setPc p).stack = s.stack := rfl
@[simp] theorem State.setPc_sp (p : Word) : (s.setPc p).sp = s.sp := rfl
@[simp] theorem State.setPc_dt (p : Word) : (s.setPc p).dt = s.dt := rfl
@[simp] theorem State.setPc_st (p : Word) : (s.setPc p).st = s.st := rfl
@[simp] theorem State.setPc_mem (p : Word) : (s.setPc p).mem = s.mem := rfl
@[simp] theorem State.setPc_fb (p : Word) : (s.setPc p).fb = s.fb := rfl
@[simp] theorem State.setPc_keys (p : Word) : (s.setPc p).keys = s.keys := rfl
@[simp] theorem State.setPc_draws (p : Word) : (s.setPc p).draws = s.draws := rfl

/-! ### setIndex -/

@[simp] theorem State.setIndex_v (w : Word) : (s.setIndex w).v = s.v := rfl
@[simp] theorem State.setIndex_pc (w : Word) : (s.setIndex w).pc = s.pc := rfl
@[simp] theorem State.setIndex_index (w : Word) : (s.setIndex w).index = w := rfl
@[simp] theorem State.setIndex_stack (w : Word) : (s.setIndex w).stack = s.stack := rfl
@[simp] theorem State.setIndex_sp (w : Word) : (s.setIndex w).sp = s.sp := rfl
@[simp] theorem State.setIndex_dt (w : Word) : (s.setIndex w).dt = s.dt := rfl
@[simp] theorem State.setIndex_st (w : Word) : (s.setIndex w).st = s.st := rfl
@[simp] theorem State.setIndex_mem (w : Word) : (s.setIndex w).mem = s.mem := rfl
@[simp] theorem State.setIndex_fb (w : Word) : (s.setIndex w).fb = s.fb := rfl
@[simp] theorem State.setIndex_keys (w : Word) : (s.setIndex w).keys = s.keys := rfl
@[simp] theorem State.setIndex_draws (w : Word) : (s.setIndex w).draws = s.draws := rfl

/-! ### setDelay -/

@[simp] theorem State.setDelay_v (b : Byte) : (s.setDelay b).v = s.v := rfl
@[simp] theorem State.setDelay_pc (b : Byte) : (s.setDelay b).pc = s.pc := rfl
@[simp] theorem State.setDelay_index (b : Byte) : (s.setDelay b).index = s.index := rfl
@[simp] theorem State.setDelay_stack (b : Byte) : (s.setDelay b).stack = s.stack := rfl
@[simp] theorem State.setDelay_sp (b : Byte) : (s.setDelay b).sp = s.sp := rfl
@[simp] theorem State.setDelay_dt (b : Byte) : (s.setDelay b).dt = b := rfl
@[simp] theorem State.setDelay_st (b : Byte) : (s.setDelay b).st = s.st := rfl
@[simp] theorem State.setDelay_mem (b : Byte) : (s.setDelay b).mem = s.mem := rfl
@[simp] theorem State.setDelay_fb (b : Byte) : (s.setDelay b).fb = s.fb := rfl
@[simp] theorem State.setDelay_keys (b : Byte) : (s.setDelay b).keys = s.keys := rfl
@[simp] theorem State.setDelay_draws (b : Byte) : (s.setDelay b).draws = s.draws := rfl

/-! ### setSound -/

@[simp] theorem State.setSound_v (b : Byte) : (s.setSound b).v = s.v := rfl
@[simp] theorem State.setSound_pc (b : Byte) : (s.setSound b).pc = s.pc := rfl
@[simp] theorem State.setSound_index (b : Byte) : (s.setSound b).index = s.index := rfl
@[simp] theorem State.setSound_stack (b : Byte) : (s.setSound b).stack = s.stack := rfl
@[simp] theorem State.setSound_sp (b : Byte) : (s.setSound b).sp = s.sp := rfl
@[simp] theorem State.setSound_dt (b : Byte) : (s.setSound b).dt = s.dt := rfl
@[simp] theorem State.setSound_st (b : Byte) : (s.setSound b).st = b := rfl
@[simp] theorem State.setSound_mem (b : Byte) : (s.setSound b).mem = s.mem := rfl
@[simp] theorem State.setSound_fb (b : Byte) : (s.setSound b).fb = s.fb := rfl
@[simp] theorem State.setSound_keys (b : Byte) : (s.setSound b).keys = s.keys := rfl
@[simp] theorem State.setSound_draws (b : Byte) : (s.setSound b).draws = s.draws := rfl

/-! ### setMem -/

@[simp] theorem State.setMem_v (m : Memory) : (s.setMem m).v = s.v := rfl
@[simp] theorem State.setMem_pc (m : Memory) : (s.setMem m).pc = s.pc := rfl
@[simp] theorem State.setMem_index (m : Memory) : (s.setMem m).index = s.index := rfl
@[simp] theorem State.setMem_stack (m : Memory) : (s.setMem m).stack = s.stack := rfl
@[simp] theorem State.setMem_sp (m : Memory) : (s.setMem m).sp = s.sp := rfl
@[simp] theorem State.setMem_dt (m : Memory) : (s.setMem m).dt = s.dt := rfl
@[simp] theorem State.setMem_st (m : Memory) : (s.setMem m).st = s.st := rfl
@[simp] theorem State.setMem_mem (m : Memory) : (s.setMem m).mem = m := rfl
@[simp] theorem State.setMem_fb (m : Memory) : (s.setMem m).fb = s.fb := rfl
@[simp] theorem State.setMem_keys (m : Memory) : (s.setMem m).keys = s.keys := rfl
@[simp] theorem State.setMem_draws (m : Memory) : (s.setMem m).draws = s.draws := rfl

/-! ### setFb -/

@[simp] theorem State.setFb_v (f : Framebuffer) : (s.setFb f).v = s.v := rfl
@[simp] theorem State.setFb_pc (f : Framebuffer) : (s.setFb f).pc = s.pc := rfl
@[simp] theorem State.setFb_index (f : Framebuffer) : (s.setFb f).index = s.index := rfl
@[simp] theorem State.setFb_stack (f : Framebuffer) : (s.setFb f).stack = s.stack := rfl
@[simp] theorem State.setFb_sp (f : Framebuffer) : (s.setFb f).sp = s.sp := rfl
@[simp] theorem State.setFb_dt (f : Framebuffer) : (s.setFb f).dt = s.dt := rfl
@[simp] theorem State.setFb_st (f : Framebuffer) : (s.setFb f).st = s.st := rfl
@[simp] theorem State.setFb_mem (f : Framebuffer) : (s.setFb f).mem = s.mem := rfl
@[simp] theorem State.setFb_fb (f : Framebuffer) : (s.setFb f).fb = f := rfl
@[simp] theorem State.setFb_keys (f : Framebuffer) : (s.setFb f).keys = s.keys := rfl
@[simp] theorem State.setFb_draws (f : Framebuffer) : (s.setFb f).draws = s.draws := rfl

/-! ### setLink -/

@[simp] theorem State.setLink_v (j : Fin 16) (w : Word) : (s.setLink j w).v = s.v := rfl
@[simp] theorem State.setLink_pc (j : Fin 16) (w : Word) : (s.setLink j w).pc = s.pc := rfl
@[simp] theorem State.setLink_index (j : Fin 16) (w : Word) : (s.setLink j w).index = s.index := rfl
@[simp] theorem State.setLink_stack (j : Fin 16) (w : Word) : (s.setLink j w).stack = s.stack.set j w := rfl
@[simp] theorem State.setLink_sp (j : Fin 16) (w : Word) : (s.setLink j w).sp = s.sp := rfl
@[simp] theorem State.setLink_dt (j : Fin 16) (w : Word) : (s.setLink j w).dt = s.dt := rfl
@[simp] theorem State.setLink_st (j : Fin 16) (w : Word) : (s.setLink j w).st = s.st := rfl
@[simp] theorem State.setLink_mem (j : Fin 16) (w : Word) : (s.setLink j w).mem = s.mem := rfl
@[simp] theorem State.setLink_fb (j : Fin 16) (w : Word) : (s.setLink j w).fb = s.fb := rfl
@[simp] theorem State.setLink_keys (j : Fin 16) (w : Word) : (s.setLink j w).keys = s.keys := rfl
@[simp] theorem State.setLink_draws (j : Fin 16) (w : Word) : (s.setLink j w).draws = s.draws := rfl

/-! ### setSp -/

@[simp] theorem State.setSp_v (n : Fin 17) : (s.setSp n).v = s.v := rfl
@[simp] theorem State.setSp_pc (n : Fin 17) : (s.setSp n).pc = s.pc := rfl
@[simp] theorem State.setSp_index (n : Fin 17) : (s.setSp n).index = s.index := rfl
@[simp] theorem State.setSp_stack (n : Fin 17) : (s.setSp n).stack = s.stack := rfl
@[simp] theorem State.setSp_sp (n : Fin 17) : (s.setSp n).sp = n := rfl
@[simp] theorem State.setSp_dt (n : Fin 17) : (s.setSp n).dt = s.dt := rfl
@[simp] theorem State.setSp_st (n : Fin 17) : (s.setSp n).st = s.st := rfl
@[simp] theorem State.setSp_mem (n : Fin 17) : (s.setSp n).mem = s.mem := rfl
@[simp] theorem State.setSp_fb (n : Fin 17) : (s.setSp n).fb = s.fb := rfl
@[simp] theorem State.setSp_keys (n : Fin 17) : (s.setSp n).keys = s.keys := rfl
@[simp] theorem State.setSp_draws (n : Fin 17) : (s.setSp n).draws = s.draws := rfl

/-! ### setKeyLatch -/

@[simp] theorem State.setKeyLatch_v (k : KeyIx) (b : Bool) : (s.setKeyLatch k b).v = s.v := rfl
@[simp] theorem State.setKeyLatch_pc (k : KeyIx) (b : Bool) : (s.setKeyLatch k b).pc = s.pc := rfl
@[simp] theorem State.setKeyLatch_index (k : KeyIx) (b : Bool) : (s.setKeyLatch k b).index = s.index := rfl
@[simp] theorem State.setKeyLatch_stack (k : KeyIx) (b : Bool) : (s.setKeyLatch k b).stack = s.stack := rfl
@[simp] theorem State.setKeyLatch_sp (k : KeyIx) (b : Bool) : (s.setKeyLatch k b).sp = s.sp := rfl
@[simp] theorem State.setKeyLatch_dt (k : KeyIx) (b : Bool) : (s.setKeyLatch k b).dt = s.dt := rfl
@[simp] theorem State.setKeyLatch_st (k : KeyIx) (b : Bool) : (s.setKeyLatch k b).st = s.st := rfl
@[simp] theorem State.setKeyLatch_mem (k : KeyIx) (b : Bool) : (s.setKeyLatch k b).mem = s.mem := rfl
@[simp] theorem State.setKeyLatch_fb (k : KeyIx) (b : Bool) : (s.setKeyLatch k b).fb = s.fb := rfl
@[simp] theorem State.setKeyLatch_keys (k : KeyIx) (b : Bool) : (s.setKeyLatch k b).keys = s.keys.set k b := rfl
@[simp] theorem State.setKeyLatch_draws (k : KeyIx) (b : Bool) : (s.setKeyLatch k b).draws = s.draws := rfl

/-! ### nextDraw -/

@[simp] theorem State.nextDraw_v : (s.nextDraw).v = s.v := rfl
@[simp] theorem State.nextDraw_pc : (s.nextDraw).pc = s.pc := rfl
@[simp] theorem State.nextDraw_index : (s.nextDraw).index = s.index := rfl
@[simp] theorem State.nextDraw_stack : (s.nextDraw).stack = s.stack := rfl
@[simp] theorem State.nextDraw_sp : (s.nextDraw).sp = s.sp := rfl
@[simp] theorem State.nextDraw_dt : (s.nextDraw).dt = s.dt := rfl
@[simp] theorem State.nextDraw_st : (s.nextDraw).st = s.st := rfl
@[simp] theorem State.nextDraw_mem : (s.nextDraw).mem = s.mem := rfl
@[simp] theorem State.nextDraw_fb : (s.nextDraw).fb = s.fb := rfl
@[simp] theorem State.nextDraw_keys : (s.nextDraw).keys = s.keys := rfl
@[simp] theorem State.nextDraw_draws : (s.nextDraw).draws = s.draws + 1 := rfl

/-! ### advance -/

@[simp] theorem State.advance_v : (s.advance).v = s.v := rfl
@[simp] theorem State.advance_pc : (s.advance).pc = s.pc + 2 := rfl
@[simp] theorem State.advance_index : (s.advance).index = s.index := rfl
@[simp] theorem State.advance_stack : (s.advance).stack = s.stack := rfl
@[simp] theorem State.advance_sp : (s.advance).sp = s.sp := rfl
@[simp] theorem State.advance_dt : (s.advance).dt = s.dt := rfl
@[simp] theorem State.advance_st : (s.advance).st = s.st := rfl
@[simp] theorem State.advance_mem : (s.advance).mem = s.mem := rfl
@[simp] theorem State.advance_fb : (s.advance).fb = s.fb := rfl
@[simp] theorem State.advance_keys : (s.advance).keys = s.keys := rfl
@[simp] theorem State.advance_draws : (s.advance).draws = s.draws := rfl

/-! ### writeFlagged -/

@[simp] theorem State.writeFlagged_v (x : RegIx) (f b : Byte) : (s.writeFlagged x f b).v = (s.v.set VF f).set x b := rfl
@[simp] theorem State.writeFlagged_pc (x : RegIx) (f b : Byte) : (s.writeFlagged x f b).pc = s.pc := rfl
@[simp] theorem State.writeFlagged_index (x : RegIx) (f b : Byte) : (s.writeFlagged x f b).index = s.index := rfl
@[simp] theorem State.writeFlagged_stack (x : RegIx) (f b : Byte) : (s.writeFlagged x f b).stack = s.stack := rfl
@[simp] theorem State.writeFlagged_sp (x : RegIx) (f b : Byte) : (s.writeFlagged x f b).sp = s.sp := rfl
@[simp] theorem State.writeFlagged_dt (x : RegIx) (f b : Byte) : (s.writeFlagged x f b).dt = s.dt := rfl
@[simp] theorem State.writeFlagged_st (x : RegIx) (f b : Byte) : (s.writeFlagged x f b).st = s.st := rfl
@[simp] theorem State.writeFlagged_mem (x : RegIx) (f b : Byte) : (s.writeFlagged x f b).mem = s.mem := rfl
@[simp] theorem State.writeFlagged_fb (x : RegIx) (f b : Byte) : (s.writeFlagged x f b).fb = s.fb := rfl
@[simp] theorem State.writeFlagged_keys (x : RegIx) (f b : Byte) : (s.writeFlagged x f b).keys = s.keys := rfl
@[simp] theorem State.writeFlagged_draws (x : RegIx) (f b : Byte) : (s.writeFlagged x f b).draws = s.draws := rfl

/-! ### skipIf -/

@[simp] theorem State.skipIf_pc (c : Bool) : (s.skipIf c).pc = if c then s.pc + 4 else s.pc + 2 := by
  cases c <;> rfl
@[simp] theorem State.skipIf_v (c : Bool) : (s.skipIf c).v = s.v := by cases c <;> rfl
@[simp] theorem State.skipIf_index (c : Bool) : (s.skipIf c).index = s.index := by cases c <;> rfl
@[simp] theorem State.skipIf_stack (c : Bool) : (s.skipIf c).stack = s.stack := by cases c <;> rfl
@[simp] theorem State.skipIf_sp (c : Bool) : (s.skipIf c).sp = s.sp := by cases c <;> rfl
@[simp] theorem State.skipIf_dt (c : Bool) : (s.skipIf c).dt = s.dt := by cases c <;> rfl
@[simp] theorem State.skipIf_st (c : Bool) : (s.skipIf c).st = s.st := by cases c <;> rfl
@[simp] theorem State.skipIf_mem (c : Bool) : (s.skipIf c).mem = s.mem := by cases c <;> rfl
@[simp] theorem State.skipIf_fb (c : Bool) : (s.skipIf c).fb = s.fb := by cases c <;> rfl
@[simp] theorem State.skipIf_keys (c : Bool) : (s.skipIf c).keys = s.keys := by cases c <;> rfl
@[simp] theorem State.skipIf_draws (c : Bool) : (s.skipIf c).draws = s.draws := by cases c <;> rfl

/-! ### tick -/

@[simp] theorem tick_v : (tick s).v = s.v := rfl
@[simp] theorem tick_pc : (tick s).pc = s.pc := rfl
@[simp] theorem tick_index : (tick s).index = s.index := rfl
@[simp] theorem tick_stack : (tick s).stack = s.stack := rfl
@[simp] theorem tick_sp : (tick s).sp = s.sp := rfl
@[simp] theorem tick_dt : (tick s).dt = decay s.dt := rfl
@[simp] theorem tick_st : (tick s).st = decay s.st := rfl
@[simp] theorem tick_mem : (tick s).mem = s.mem := rfl
@[simp] theorem tick_fb : (tick s).fb = s.fb := rfl
@[simp] theorem tick_keys : (tick s).keys = s.keys := rfl
@[simp] theorem tick_draws : (tick s).draws = s.draws := rfl

/-! ### Reading registers -/

theorem State.readV_eq (x : RegIx) : s.readV x = s.v[x] := rfl

@[simp] theorem State.readV_writeV (x y : RegIx) (b : Byte) :
    (s.writeV x b).readV y = if y = x then b else s.readV y := by
  simp only [State.readV, State.writeV, Fin.getElem_fin, Vector.getElem_set, Fin.val_inj]
  by_cases h : x = y
  · simp [h]
  · simp [h, Ne.symm h]

theorem State.readV_writeV_same (x : RegIx) (b : Byte) : (s.writeV x b).readV x = b := by simp

theorem State.readV_writeFlagged (x y : RegIx) (f b : Byte) :
    (s.writeFlagged x f b).readV y = if y = x then b else if y = VF then f else s.readV y := by
  simp [State.writeFlagged]

@[simp] theorem State.readV_setPc (p : Word) (y : RegIx) : (s.setPc p).readV y = s.readV y := rfl
@[simp] theorem State.readV_setIndex (w : Word) (y : RegIx) : (s.setIndex w).readV y = s.readV y := rfl
@[simp] theorem State.readV_setDelay (b : Byte) (y : RegIx) : (s.setDelay b).readV y = s.readV y := rfl
@[simp] theorem State.readV_setSound (b : Byte) (y : RegIx) : (s.setSound b).readV y = s.readV y := rfl
@[simp] theorem State.readV_setMem (m : Memory) (y : RegIx) : (s.setMem m).readV y = s.readV y := rfl
@[simp] theorem State.readV_setFb (f : Framebuffer) (y : RegIx) : (s.setFb f).readV y = s.readV y := rfl
@[simp] theorem State.readV_setLink (j : Fin 16) (w : Word) (y : RegIx) : (s.setLink j w).readV y = s.readV y := rfl
@[simp] theorem State.readV_setSp (n : Fin 17) (y : RegIx) : (s.setSp n).readV y = s.readV y := rfl
@[simp] theorem State.readV_setKeyLatch (k : KeyIx) (b : Bool) (y : RegIx) : (s.setKeyLatch k b).readV y = s.readV y := rfl
@[simp] theorem State.readV_nextDraw (y : RegIx) : (s.nextDraw).readV y = s.readV y := rfl
@[simp] theorem State.readV_advance (y : RegIx) : (s.advance).readV y = s.readV y := rfl
@[simp] theorem State.readV_setRegs (w : Vector Byte 16) (y : RegIx) : (s.setRegs w).readV y = w[y] := rfl
@[simp] theorem State.readV_skipIf (c : Bool) (y : RegIx) : (s.skipIf c).readV y = s.readV y := by cases c <;> rfl
@[simp] theorem readV_tick (y : RegIx) : (tick s).readV y = s.readV y := rfl

end Sys2Proof.Machine
end

