-- ==== Sys2Proof/Laws/Ops.lean ====
section
/-! SUPPORT. One lemma per shared operation that says everything it can do. -/

namespace Sys2Proof.Machine

/-! ## Bounds -/

theorem inRange_iff (base count : Nat) : inRange base count = true ↔ count = 0 ∨ base + count ≤ 4096 := by
  simp only [inRange, Config.lastAddr, Bool.or_eq_true, beq_iff_eq, decide_eq_true_eq]
  omega

/-- A guarded access either goes on as given, in range, or faults with the lowest bad address. -/
theorem guardRange_eq (base count : Nat) (t : State) :
    guardRange base count t =
      if count = 0 ∨ base + count ≤ 4096 then .next t else .fault (.outOfBounds (max base 4096)) := by
  simp only [guardRange, raise, ← inRange_iff]

theorem guardRange_next {base count : Nat} {t u : State} (h : guardRange base count t = .next u) :
    (count = 0 ∨ base + count ≤ 4096) ∧ u = t := by
  rw [guardRange_eq] at h
  split at h
  · exact ⟨‹_›, by simpa using h.symm⟩
  · simp at h

theorem guardRange_fault {base count : Nat} {t : State} {f : Fault} (h : guardRange base count t = .fault f) :
    count ≠ 0 ∧ base + count > 4096 ∧ f = .outOfBounds (max base 4096) := by
  rw [guardRange_eq] at h
  split at h
  · simp at h
  · refine ⟨by omega, by omega, by simpa using h.symm⟩

/-- When a guarded access faults, and with what. -/
theorem guardRange_eq_fault {base count : Nat} {t : State} {f : Fault} :
    guardRange base count t = .fault f ↔ count ≠ 0 ∧ base + count > 4096 ∧ f = .outOfBounds (max base 4096) := by
  refine ⟨guardRange_fault, fun ⟨hc, hr, hf⟩ => ?_⟩
  rw [guardRange_eq, if_neg (by omega), hf]

/-! ## Fetch -/

theorem fetch_eq (s : State) :
    fetch s = if s.pc.toNat ≤ 4094 then
        .ok (wordOfBytes (s.mem.read s.pc.toNat) (s.mem.read (s.pc.toNat + 1)))
      else .error (.outOfBounds (max s.pc.toNat 4096)) := by
  simp only [fetch, Config.lastAddr]
  by_cases h : s.pc.toNat ≤ 4094
  · rw [if_pos h, if_neg (by omega)]
  · rw [if_neg h, if_pos (by omega)]
    congr 2
    split <;> omega

/-! ## Timers -/

theorem toNat_decay (t : Byte) : (decay t).toNat = t.toNat - 1 := by
  unfold decay
  split
  · next h => simp [h]
  · next h =>
    have : t.toNat ≠ 0 := fun hc => h (BitVec.eq_of_toNat_eq hc)
    have := t.isLt
    rw [BitVec.toNat_sub]
    simp
    omega

/-! ## Call stack -/

theorem State.push?_eq_some {s : State} {w : Word} {t : State} (h : s.push? w = some t) :
    ∃ hlt : s.sp.val < 16, t = { s with stack := s.stack.set s.sp.val w, sp := ⟨s.sp.val + 1, by omega⟩ } := by
  unfold State.push? at h
  split at h
  · next hlt => exact ⟨hlt, by simpa [State.setLink, State.setSp] using h.symm⟩
  · simp at h

theorem State.push?_eq_none {s : State} {w : Word} : s.push? w = none ↔ s.sp.val = 16 := by
  unfold State.push?
  have := s.sp.isLt
  simp only [Config.stackDepth]
  split
  · simp
    omega
  · simp
    omega

theorem State.push?_of_lt {s : State} (w : Word) (h : s.sp.val < 16) :
    s.push? w = some { s with stack := s.stack.set s.sp.val w, sp := ⟨s.sp.val + 1, by omega⟩ } := by
  unfold State.push?
  rw [dif_pos h]
  rfl

theorem State.pop?_of_pos {s : State} (h : 0 < s.sp.val) :
    s.pop? = some (s.stack[s.sp.val - 1]'(by have := s.sp.isLt; omega),
      { s with sp := ⟨s.sp.val - 1, by omega⟩ }) := by
  unfold State.pop?
  rw [dif_pos h]
  rfl

theorem State.pop?_eq_none {s : State} : s.pop? = none ↔ s.sp.val = 0 := by
  unfold State.pop?
  split
  · simp
    omega
  · simp
    omega

theorem State.pop?_eq_some {s : State} {w : Word} {t : State} (h : s.pop? = some (w, t)) :
    ∃ hp : 0 < s.sp.val, w = s.stack[s.sp.val - 1]'(by have := s.sp.isLt; omega) ∧
      t = { s with sp := ⟨s.sp.val - 1, by omega⟩ } := by
  by_cases hp : 0 < s.sp.val
  · rw [State.pop?_of_pos hp] at h
    simp only [Option.some.injEq, Prod.mk.injEq] at h
    exact ⟨hp, h.1.symm, h.2.symm⟩
  · have := (State.pop?_eq_none (s := s)).2 (by omega)
    simp [this] at h

/-! ## Operands -/

theorem toNat_zextAddr (addr : BitVec 12) : (zextAddr addr).toNat = addr.toNat := by
  have := addr.isLt
  simp only [zextAddr, BitVec.toNat_setWidth]
  omega

theorem toNat_zextByte (b : Byte) : (zextByte b).toNat = b.toNat := by
  have := b.isLt
  simp only [zextByte, BitVec.toNat_setWidth]
  omega

theorem State.length_regBlock (s : State) (x : RegIx) : (s.regBlock x).length = x.val + 1 := by
  simp [State.regBlock, blockLength]

theorem State.getElem_regBlock (s : State) (x : RegIx) (k : Nat) (h : k < (s.regBlock x).length) :
    (s.regBlock x)[k] = s.readV ⟨k, by have := s.length_regBlock x; have := x.isLt; omega⟩ := by
  simp [State.regBlock, State.readV]

theorem State.getElem_loadedBlock (s : State) (x : RegIx) (base : Nat) (j : RegIx) :
    (s.loadedBlock x base)[j] = if j.val ≤ x.val then s.mem.read (base + j.val) else s.readV j := by
  simp [State.loadedBlock, State.readV]

theorem keyOfByte_of_lt {b : Byte} (h : b.toNat < 16) : keyOfByte b = some ⟨b.toNat, h⟩ := dif_pos h

theorem keyOfByte_eq_none {b : Byte} : keyOfByte b = none ↔ 15 < b.toNat := by
  unfold keyOfByte
  split
  · simp
    omega
  · simp only [true_iff]
    omega

/-- The scan of the keypad gives a pressed key with none pressed below it, or there is no pressed key. -/
theorem Keypad.firstPressed_eq_some {k : Keypad} {j : KeyIx} :
    Keypad.firstPressed k = some j ↔ k[j] = true ∧ ∀ i : KeyIx, i < j → k[i] = false := by
  unfold Keypad.firstPressed
  rw [List.find?_eq_some_iff_getElem]
  constructor
  · rintro ⟨hj, n, hn, he, hlt⟩
    simp only [List.length_finRange] at hn
    simp only [List.getElem_finRange, Fin.cast_mk] at he
    subst he
    refine ⟨hj, fun i hi => ?_⟩
    have := hlt i.val hi
    simpa using this
  · rintro ⟨hj, hlt⟩
    refine ⟨hj, j.val, by simp, by simp, fun n hn => ?_⟩
    have := hlt ⟨n, by omega⟩ hn
    simpa using this

theorem Keypad.firstPressed_eq_none {k : Keypad} : Keypad.firstPressed k = none ↔ ∀ j : KeyIx, k[j] = false := by
  simp [Keypad.firstPressed]

/-! ## Framebuffer -/

@[simp] theorem Framebuffer.cell_put (f : Framebuffer) (r r' : Row) (c c' : Col) (b : Bool) :
    (f.put r c b).cell r' c' = if r' = r ∧ c' = c then b else f.cell r' c' := by
  simp only [Framebuffer.cell, Framebuffer.put, Fin.getElem_fin, Vector.getElem_set]
  by_cases hr : r.val = r'.val
  · have hr' : r' = r := Fin.ext hr.symm
    subst hr'
    by_cases hc : c.val = c'.val
    · simp [Fin.ext hc]
    · have : ¬c' = c := fun h => hc (by rw [h])
      simp [hc, this]
  · have : ¬r' = r := fun h => hr (by rw [h])
    simp [hr, this]

@[simp] theorem Framebuffer.cell_blank (r : Row) (c : Col) : Framebuffer.blank.cell r c = false := by
  simp [Framebuffer.blank, Framebuffer.cell]

/-- Two framebuffers with the same cells are the same. -/
theorem Framebuffer.ext_cells {f g : Framebuffer} (h : ∀ r c, f.cell r c = g.cell r c) : f = g := by
  apply Vector.ext
  intro r hr
  apply Vector.ext
  intro c hc
  exact h ⟨r, hr⟩ ⟨c, hc⟩

/-- One sprite bit changes one cell, by exclusive or, and reports the cell that was on. -/
theorem blitPixel_cell (bit : Bool) (r r' : Row) (c c' : Col) (acc : Blit) :
    (blitPixel bit r c acc).fb.cell r' c' =
      (acc.fb.cell r' c' ^^ (bit && (decide (r' = r) && decide (c' = c)))) := by
  unfold blitPixel
  cases bit
  · simp
  · by_cases h : r' = r ∧ c' = c
    · simp [h]
    · simp only [if_true, Framebuffer.cell_put, if_neg h]
      have : (decide (r' = r) && decide (c' = c)) = false := by simpa using h
      simp [this]

theorem blitPixel_collision (bit : Bool) (r : Row) (c : Col) (acc : Blit) :
    (blitPixel bit r c acc).collision = (acc.collision || (bit && acc.fb.cell r c)) := by
  unfold blitPixel
  cases bit <;> simp

end Sys2Proof.Machine
end

