-- ==== Sys2Proof/Laws/Display.lean ====
section
/-! SUPPORT. What laying a sprite over the framebuffer does, cell by cell (41_display.md R146(b)): the columns of one
sprite row are distinct, and so are the framebuffer rows of up to 32 sprite rows, so each cell is met at most once. -/

namespace Sys2Proof.Machine

theorem val_wrapCol (ox col : Nat) : (wrapCol ox col).val = (ox + col) % 64 := rfl

theorem val_wrapRow (oy row : Nat) : (wrapRow oy row).val = (oy + row) % 32 := rfl

/-- Columns closer than 64 wrap to distinct columns. -/
theorem wrapCol_inj {ox a b : Nat} (ha : a < 64) (hb : b < 64) (h : wrapCol ox a = wrapCol ox b) : a = b := by
  have := congrArg Fin.val h
  rw [val_wrapCol, val_wrapCol] at this
  omega

/-- Rows closer than 32 wrap to distinct rows. -/
theorem wrapRow_inj {oy a b : Nat} (ha : a < 32) (hb : b < 32) (h : wrapRow oy a = wrapRow oy b) : a = b := by
  have := congrArg Fin.val h
  rw [val_wrapRow, val_wrapRow] at this
  omega

/-- The bits of a sprite byte that land on column `c`. -/
def rowCovers (b : Byte) (ox : Nat) (cols : List Nat) (c : Col) : Bool :=
  cols.any fun col => b.getLsbD (7 - col) && decide (c = wrapCol ox col)

/-- The fold of `blitRow` over any columns that wrap to distinct ones: each cell of the row is inverted at most once, and
every collision is seen on the cells as they were. -/
theorem blitColumns_spec (b : Byte) (ox : Nat) (r : Row) (cols : List Nat)
    (hd : cols.Pairwise fun a d => wrapCol ox a ≠ wrapCol ox d) : ∀ acc : Blit,
    let out := cols.foldl (fun acc col => blitPixel (b.getLsbD (7 - col)) r (wrapCol ox col) acc) acc
    (∀ r' c', out.fb.cell r' c' = (acc.fb.cell r' c' ^^ (decide (r' = r) && rowCovers b ox cols c'))) ∧
    out.collision = (acc.collision || cols.any fun col => b.getLsbD (7 - col) && acc.fb.cell r (wrapCol ox col)) := by
  induction cols with
  | nil => intro acc; simp [rowCovers]
  | cons k ks ih =>
    intro acc
    rw [List.pairwise_cons] at hd
    obtain ⟨hcell, hcoll⟩ := ih hd.2 (blitPixel (b.getLsbD (7 - k)) r (wrapCol ox k) acc)
    simp only [List.foldl_cons]
    refine ⟨fun r' c' => ?_, ?_⟩
    · rw [hcell, blitPixel_cell]
      simp only [rowCovers, List.any_cons]
      by_cases hc : c' = wrapCol ox k
      · subst hc
        have hno : (ks.any fun col => b.getLsbD (7 - col) && decide (wrapCol ox k = wrapCol ox col)) = false := by
          rw [List.any_eq_false]
          intro d hdm
          simp [hd.1 d hdm]
        rw [hno]
        cases b.getLsbD (7 - k) <;> cases decide (r' = r) <;> simp
      · simp [hc]
    · have hsame : (ks.any fun col => b.getLsbD (7 - col) &&
          (blitPixel (b.getLsbD (7 - k)) r (wrapCol ox k) acc).fb.cell r (wrapCol ox col)) =
          ks.any fun col => b.getLsbD (7 - col) && acc.fb.cell r (wrapCol ox col) := by
        rw [Bool.eq_iff_iff, List.any_eq_true, List.any_eq_true]
        refine exists_congr fun d => and_congr_right fun hdm => ?_
        rw [blitPixel_cell]
        simp [Ne.symm (hd.1 d hdm)]
      rw [hcoll, hsame, blitPixel_collision, List.any_cons, Bool.or_assoc]

theorem range8_wrap_distinct (ox : Nat) :
    (List.range 8).Pairwise fun a d => wrapCol ox a ≠ wrapCol ox d := by
  refine (List.pairwise_lt_range (n := 8)).imp_of_mem fun {a d} ha hd hlt heq => ?_
  rw [List.mem_range] at ha hd
  have := wrapCol_inj (by omega) (by omega) heq
  omega

/-- Whether some bit of a sprite byte lands on column `c`. -/
def byteCovers (b : Byte) (ox : Nat) (c : Col) : Bool := rowCovers b ox (List.range 8) c

/-- One sprite byte inverts, in its row, exactly the cells its 1 bits land on, and collides where one of them was on. -/
theorem blitRow_spec (b : Byte) (ox : Nat) (r : Row) (acc : Blit) :
    (∀ r' c', (blitRow b ox r acc).fb.cell r' c' = (acc.fb.cell r' c' ^^ (decide (r' = r) && byteCovers b ox c'))) ∧
    ((blitRow b ox r acc).collision = true ↔
      acc.collision = true ∨ ∃ c, byteCovers b ox c = true ∧ acc.fb.cell r c = true) := by
  obtain ⟨hcell, hcoll⟩ := blitColumns_spec b ox r (List.range 8) (range8_wrap_distinct ox) acc
  refine ⟨hcell, ?_⟩
  simp only [blitRow, hcoll, Bool.or_eq_true]
  refine or_congr Iff.rfl ?_
  simp only [byteCovers, rowCovers, List.any_eq_true, Bool.and_eq_true, decide_eq_true_eq]
  constructor
  · rintro ⟨col, hm, hb, hc⟩
    exact ⟨wrapCol ox col, ⟨col, hm, hb, rfl⟩, hc⟩
  · rintro ⟨c, ⟨col, hm, hb, rfl⟩, hc⟩
    exact ⟨col, hm, hb, hc⟩

/-- Whether some row of a sprite, the first of them sprite row `k`, covers a cell. -/
def spriteRowsCover (ox oy : Nat) : (k : Nat) → List Byte → Row → Col → Bool
  | _, [], _, _ => false
  | k, b :: bs, r, c => (decide (r = wrapRow oy k) && byteCovers b ox c) || spriteRowsCover ox oy (k + 1) bs r c

theorem spriteRowsCover_row {ox oy k : Nat} {bs : List Byte} {r : Row} {c : Col}
    (h : spriteRowsCover ox oy k bs r c = true) : ∃ j, k ≤ j ∧ j < k + bs.length ∧ r = wrapRow oy j := by
  induction bs generalizing k with
  | nil => simp [spriteRowsCover] at h
  | cons b bs ih =>
    simp only [spriteRowsCover, Bool.or_eq_true, Bool.and_eq_true, decide_eq_true_eq] at h
    rcases h with ⟨rfl, -⟩ | h
    · exact ⟨k, by omega, by simp, rfl⟩
    · obtain ⟨j, h1, h2, h3⟩ := ih h
      exact ⟨j, by omega, by simp only [List.length_cons]; omega, h3⟩

/-- A sprite of fewer than 32 rows inverts exactly the cells it covers, and collides where a covered cell was on. -/
theorem blitRows_spec (ox oy : Nat) (bs : List Byte) : ∀ (k : Nat), bs.length ≤ 31 → ∀ acc : Blit,
    (∀ r c, (blitRows ox oy k bs acc).fb.cell r c = (acc.fb.cell r c ^^ spriteRowsCover ox oy k bs r c)) ∧
    ((blitRows ox oy k bs acc).collision = true ↔
      acc.collision = true ∨ ∃ r c, spriteRowsCover ox oy k bs r c = true ∧ acc.fb.cell r c = true) := by
  induction bs with
  | nil => intro k _ acc; simp [blitRows, spriteRowsCover]
  | cons b bs ih =>
    intro k hl acc
    simp only [List.length_cons] at hl
    obtain ⟨hcell, hcoll⟩ := ih (k + 1) (by omega) (blitRow b ox (wrapRow oy k) acc)
    obtain ⟨rcell, rcoll⟩ := blitRow_spec b ox (wrapRow oy k) acc
    have hother : ∀ c, spriteRowsCover ox oy (k + 1) bs (wrapRow oy k) c = false := by
      intro c
      by_contra hne
      obtain ⟨j, h1, h2, h3⟩ := spriteRowsCover_row (Bool.eq_true_of_not_eq_false hne)
      have e := congrArg Fin.val h3
      rw [val_wrapRow, val_wrapRow] at e
      omega
    simp only [blitRows]
    refine ⟨fun r c => ?_, ?_⟩
    · rw [hcell, rcell]
      simp only [spriteRowsCover]
      by_cases hr : r = wrapRow oy k
      · subst hr
        simp [hother]
      · simp [hr]
    · rw [hcoll, rcoll, or_assoc]
      refine or_congr Iff.rfl ?_
      constructor
      · rintro (⟨c, h1, h2⟩ | ⟨r, c, h1, h2⟩)
        · exact ⟨wrapRow oy k, c, by simp [spriteRowsCover, h1], h2⟩
        · have hr : r ≠ wrapRow oy k := by
            rintro rfl
            simp [hother] at h1
          rw [rcell] at h2
          exact ⟨r, c, by simp [spriteRowsCover, h1], by simpa [hr] using h2⟩
      · rintro ⟨r, c, h1, h2⟩
        simp only [spriteRowsCover, Bool.or_eq_true, Bool.and_eq_true, decide_eq_true_eq] at h1
        rcases h1 with ⟨rfl, h1⟩ | h1
        · exact .inl ⟨c, h1, h2⟩
        · refine .inr ⟨r, c, h1, ?_⟩
          have hr : r ≠ wrapRow oy k := by
            rintro rfl
            simp [hother] at h1
          rw [rcell]
          simpa [hr] using h2

/-- A sprite byte covers a column if one of its eight columns lands there with its bit set. -/
theorem byteCovers_iff {b : Byte} {ox : Nat} {c : Col} : byteCovers b ox c = true ↔
    ∃ col, col < 8 ∧ c.val = (ox + col) % 64 ∧ b.getLsbD (7 - col) = true := by
  simp only [byteCovers, rowCovers, List.any_eq_true, List.mem_range, Bool.and_eq_true, decide_eq_true_eq,
    Fin.ext_iff, val_wrapCol]
  constructor <;> exact fun ⟨a, h1, h2, h3⟩ => ⟨a, h1, h3, h2⟩

/-- The bytes of memory from `base` on, as sprite rows from row `k` on, cover a cell by some row and column. -/
theorem spriteRowsCover_readBytes {m : Memory} {ox oy : Nat} {r : Row} {c : Col} : ∀ {n base k : Nat},
    spriteRowsCover ox oy k (m.readBytes base n) r c = true ↔
    ∃ row col, row < n ∧ col < 8 ∧ r.val = (oy + (k + row)) % 32 ∧ c.val = (ox + col) % 64 ∧
      (m.read (base + row)).getLsbD (7 - col) = true := by
  intro n
  induction n with
  | zero => intro base k; simp [Memory.readBytes, spriteRowsCover]
  | succ n ih =>
    intro base k
    simp only [Memory.readBytes, spriteRowsCover, Bool.or_eq_true, Bool.and_eq_true, decide_eq_true_eq,
      byteCovers_iff, ih, Fin.ext_iff, val_wrapRow]
    constructor
    · rintro (⟨hr, col, h1, h2, h3⟩ | ⟨row, col, h0, h1, h2, h3, h4⟩)
      · exact ⟨0, col, by omega, h1, by simpa using hr, h2, h3⟩
      · exact ⟨row + 1, col, by omega, h1, by rw [h2]; congr 1; omega, h3, by
          rw [show base + (row + 1) = base + 1 + row by omega]; exact h4⟩
    · rintro ⟨row, col, h0, h1, h2, h3, h4⟩
      cases row with
      | zero => exact .inl ⟨by simpa using h2, col, h1, h3, h4⟩
      | succ row => exact .inr ⟨row, col, by omega, h1, by rw [h2]; congr 1; omega, h3, by
          rw [show base + 1 + row = base + (row + 1) by omega]; exact h4⟩

/-- What a draw lays over the framebuffer, in terms of the sprite mask. -/
theorem drawBlit_spec (x y : RegIx) (n : BitVec 4) (s : State) :
    (∀ r c, (spriteCovers s (s.readV x).toNat (s.readV y).toNat n.toNat r c →
        (drawBlit x y n s).fb.cell r c = !s.fb.cell r c) ∧
      (¬spriteCovers s (s.readV x).toNat (s.readV y).toNat n.toNat r c → (drawBlit x y n s).fb.cell r c = s.fb.cell r c)) ∧
    ((drawBlit x y n s).collision = true ↔
      ∃ r c, spriteCovers s (s.readV x).toNat (s.readV y).toNat n.toNat r c ∧ s.fb.cell r c = true) := by
  have hlen : (s.mem.readBytes s.base n.toNat).length ≤ 31 := by
    have := n.isLt
    rw [Memory.length_readBytes]
    omega
  obtain ⟨hcell, hcoll⟩ := blitRows_spec (s.readV x).toNat (s.readV y).toNat _ 0 hlen ⟨s.fb, false⟩
  have hcov : ∀ r c, spriteRowsCover (s.readV x).toNat (s.readV y).toNat 0 (s.mem.readBytes s.base n.toNat) r c = true ↔
      spriteCovers s (s.readV x).toNat (s.readV y).toNat n.toNat r c := fun r c => by
    rw [spriteRowsCover_readBytes]
    simp only [Nat.zero_add, spriteCovers, State.base]
  refine ⟨fun r c => ⟨fun h => ?_, fun h => ?_⟩, ?_⟩
  · rw [drawBlit, hcell, (hcov r c).2 h, Bool.xor_true]
  · rw [drawBlit, hcell, Bool.eq_false_iff.2 fun hc => h ((hcov r c).1 hc), Bool.xor_false]
  · simp only [drawBlit, hcoll, hcov, Bool.false_eq_true, false_or]

end Sys2Proof.Machine
end

