-- ==== Sys2Proof/Laws/Exec.lean ====
section
/-! SUPPORT. What a completed instruction has done, for the instructions that may also fault or that look before they act:
one inversion lemma each. Of the other instructions `exec i s = .next t` says so by definition. And the fetch of a step. -/

namespace Sys2Proof.Machine

variable {s t : State}

theorem execRet_next (h : exec .ret s = .next t) :
    ∃ hp : 0 < s.sp.val, t = { s with
      sp := ⟨s.sp.val - 1, by omega⟩
      pc := s.stack[s.sp.val - 1]'(by have := s.sp.isLt; omega) + 2 } := by
  simp only [exec, execRet] at h
  split at h
  · next hpop =>
    obtain ⟨hp, rfl, rfl⟩ := State.pop?_eq_some hpop
    exact ⟨hp, by simpa [State.setPc] using h.symm⟩
  · simp [raise] at h

theorem execCall_next {addr : BitVec 12} (h : exec (.call addr) s = .next t) :
    ∃ hlt : s.sp.val < 16, t = { s with
      stack := s.stack.set s.sp.val s.pc
      sp := ⟨s.sp.val + 1, by omega⟩
      pc := zextAddr addr } := by
  simp only [exec, execCall] at h
  split at h
  · next hpush =>
    obtain ⟨hlt, rfl⟩ := State.push?_eq_some hpush
    exact ⟨hlt, by simpa [State.setPc] using h.symm⟩
  · simp [raise] at h

theorem execDraw_next {x y : RegIx} {n : BitVec 4} (h : exec (.draw x y n) s = .next t) :
    (n.toNat = 0 ∨ s.base + n.toNat ≤ 4096) ∧
    t = ((s.setFb (drawBlit x y n s).fb).writeV VF (collisionFlag (drawBlit x y n s).collision)).advance :=
  guardRange_next h

theorem execStoreBcd_next {x : RegIx} (h : exec (.storeBcd x) s = .next t) :
    s.base + 3 ≤ 4096 ∧ t = (s.setMem (s.mem.writeBytes s.base (bcdDigits (s.readV x)))).advance := by
  obtain ⟨hr, rfl⟩ := guardRange_next h
  exact ⟨by omega, rfl⟩

theorem execRegisterDump_next {x : RegIx} (h : exec (.registerDump x) s = .next t) :
    s.base + (x.val + 1) ≤ 4096 ∧ t = (s.setMem (s.mem.writeBytes s.base (s.regBlock x))).advance := by
  obtain ⟨hr, rfl⟩ := guardRange_next h
  simp only [blockLength] at hr
  exact ⟨by omega, rfl⟩

theorem execRegisterLoad_next {x : RegIx} (h : exec (.registerLoad x) s = .next t) :
    s.base + (x.val + 1) ≤ 4096 ∧ t = (s.setRegs (s.loadedBlock x s.base)).advance := by
  obtain ⟨hr, rfl⟩ := guardRange_next h
  simp only [blockLength] at hr
  exact ⟨by omega, rfl⟩

theorem execSkipIfKeyPressed_next {x : RegIx} (h : exec (.skipIfKeyPressed x) s = .next t) :
    ∃ k : KeyIx, (s.readV x).toNat = k.val ∧ t = s.skipIf s.keys[k] := by
  simp only [exec, execSkipIfKeyPressed] at h
  by_cases hk : (s.readV x).toNat < 16
  · rw [keyOfByte_of_lt hk] at h
    exact ⟨⟨_, hk⟩, rfl, by simpa using h.symm⟩
  · rw [keyOfByte_eq_none.2 (by omega)] at h
    simp [raise] at h

theorem execSkipIfKeyNotPressed_next {x : RegIx} (h : exec (.skipIfKeyNotPressed x) s = .next t) :
    ∃ k : KeyIx, (s.readV x).toNat = k.val ∧ t = s.skipIf (!s.keys[k]) := by
  simp only [exec, execSkipIfKeyNotPressed] at h
  by_cases hk : (s.readV x).toNat < 16
  · rw [keyOfByte_of_lt hk] at h
    exact ⟨⟨_, hk⟩, rfl, by simpa using h.symm⟩
  · rw [keyOfByte_eq_none.2 (by omega)] at h
    simp [raise] at h

theorem execWaitForKey_next {x : RegIx} (h : exec (.waitForKey x) s = .next t) :
    (∃ k : KeyIx, s.keys[k] = true ∧ (∀ j : KeyIx, j < k → s.keys[j] = false) ∧
      t = (s.writeV x (BitVec.ofNat 8 k.val)).advance) ∨
    ((∀ k : KeyIx, s.keys[k] = false) ∧ t = s) := by
  simp only [exec, execWaitForKey] at h
  split at h
  · next k hk =>
    obtain ⟨h1, h2⟩ := Keypad.firstPressed_eq_some.1 hk
    exact .inl ⟨k, h1, h2, by simpa using h.symm⟩
  · next hk => exact .inr ⟨Keypad.firstPressed_eq_none.1 hk, by simpa [State.setPc] using h.symm⟩

/-- A step from `pc` at most 4094 runs the word at `pc` and ticks if it completes. -/
theorem step_of_fetchable (hp : s.pc.toNat ≤ 4094) :
    step s = match exec (decode (wordOfBytes (s.mem.read s.pc.toNat) (s.mem.read (s.pc.toNat + 1)))) s with
      | .next t => .next (tick t)
      | .fault f => .fault f
      | .refused r => .refused r := by
  unfold step
  rw [fetch_eq, if_pos hp]
  exact rfl

theorem step_of_unfetchable (hp : 4094 < s.pc.toNat) :
    step s = .fault (.outOfBounds (max s.pc.toNat 4096)) := by
  simp only [step, fetch_eq, raise]
  rw [if_neg (by omega)]

end Sys2Proof.Machine
end

