-- ==== Sys2Proof/Laws/PerInstr.lean ====
section
/-! SUPPORT. Per instruction: the fields that the word of an instruction has, in its format (30_encoding.md R91, R92,
R96), and that an unassigned word is its own encoding. -/

namespace Sys2Proof.Laws.WordFields

/-- The fields of format `A`. -/
abbrev hasA (w : Word) (op : BitVec 4) (addr : BitVec 12) : Prop := fieldOp w = op ∧ fieldAddr w = addr

/-- The fields of formats `XK` and `X`. -/
abbrev hasXK (w : Word) (op : BitVec 4) (x : RegIx) (kk : Byte) : Prop :=
  fieldOp w = op ∧ fieldX w = x ∧ fieldKk w = kk

/-- The fields of formats `XY`, `XYN` and `W`. -/
abbrev hasXYN (w : Word) (op : BitVec 4) (x y : RegIx) (n : BitVec 4) : Prop :=
  fieldOp w = op ∧ fieldX w = x ∧ fieldY w = y ∧ fieldN w = n

theorem hasA_formatA (op : BitVec 4) (addr : BitVec 12) : hasA (formatA op addr) op addr := by simp [hasA]

theorem hasXK_formatXK (op : BitVec 4) (x : RegIx) (kk : Byte) : hasXK (formatXK op x kk) op x kk := by simp [hasXK]

theorem hasXYN_formatXYN (op : BitVec 4) (x y : RegIx) (n : BitVec 4) : hasXYN (formatXYN op x y n) op x y n := by
  simp [hasXYN]

/-- The fields of a word that encodes the instruction. -/
def Fields (w : Word) : Instr → Prop
  | .clearDisplay => hasXYN w 0x0 0 0xE 0x0
  | .ret => hasXYN w 0x0 0 0xE 0xE
  | .systemCall addr => hasA w 0x0 addr
  | .jump addr => hasA w 0x1 addr
  | .call addr => hasA w 0x2 addr
  | .skipIfEqualImmediate x kk => hasXK w 0x3 x kk
  | .skipIfNotEqualImmediate x kk => hasXK w 0x4 x kk
  | .skipIfRegistersEqual x y => hasXYN w 0x5 x y 0x0
  | .loadImmediate x kk => hasXK w 0x6 x kk
  | .addImmediate x kk => hasXK w 0x7 x kk
  | .registerMove x y => hasXYN w 0x8 x y 0x0
  | .registerOr x y => hasXYN w 0x8 x y 0x1
  | .registerAnd x y => hasXYN w 0x8 x y 0x2
  | .registerXor x y => hasXYN w 0x8 x y 0x3
  | .registerAdd x y => hasXYN w 0x8 x y 0x4
  | .registerSubtract x y => hasXYN w 0x8 x y 0x5
  | .shiftRight x y => hasXYN w 0x8 x y 0x6
  | .registerSubtractReverse x y => hasXYN w 0x8 x y 0x7
  | .shiftLeft x y => hasXYN w 0x8 x y 0xE
  | .skipIfRegistersNotEqual x y => hasXYN w 0x9 x y 0x0
  | .loadIndex addr => hasA w 0xA addr
  | .jumpWithOffset addr => hasA w 0xB addr
  | .randomAnd x kk => hasXK w 0xC x kk
  | .draw x y n => hasXYN w 0xD x y n
  | .skipIfKeyPressed x => hasXK w 0xE x 0x9E
  | .skipIfKeyNotPressed x => hasXK w 0xE x 0xA1
  | .readDelayTimer x => hasXK w 0xF x 0x07
  | .waitForKey x => hasXK w 0xF x 0x0A
  | .setDelayTimer x => hasXK w 0xF x 0x15
  | .setSoundTimer x => hasXK w 0xF x 0x18
  | .addToIndex x => hasXK w 0xF x 0x1E
  | .loadGlyphAddress x => hasXK w 0xF x 0x29
  | .storeBcd x => hasXK w 0xF x 0x33
  | .registerDump x => hasXK w 0xF x 0x55
  | .registerLoad x => hasXK w 0xF x 0x65
  | .unassigned v => w = v

/-- The word of an instruction has the opcode, the operands and the sub-selector of its row of the opcode map. -/
def Statement (i : Instr) : Prop := Fields (encode i) i

theorem clearDisplay : Statement .clearDisplay := ⟨by decide, by decide, by decide, by decide⟩

theorem ret : Statement .ret := ⟨by decide, by decide, by decide, by decide⟩

theorem systemCall (addr : BitVec 12) : Statement (.systemCall addr) := hasA_formatA _ _

theorem jump (addr : BitVec 12) : Statement (.jump addr) := hasA_formatA _ _

theorem call (addr : BitVec 12) : Statement (.call addr) := hasA_formatA _ _

theorem skipIfEqualImmediate (x : RegIx) (kk : Byte) : Statement (.skipIfEqualImmediate x kk) := hasXK_formatXK _ _ _

theorem skipIfNotEqualImmediate (x : RegIx) (kk : Byte) : Statement (.skipIfNotEqualImmediate x kk) := hasXK_formatXK _ _ _

theorem skipIfRegistersEqual (x y : RegIx) : Statement (.skipIfRegistersEqual x y) := hasXYN_formatXYN _ _ _ _

theorem loadImmediate (x : RegIx) (kk : Byte) : Statement (.loadImmediate x kk) := hasXK_formatXK _ _ _

theorem addImmediate (x : RegIx) (kk : Byte) : Statement (.addImmediate x kk) := hasXK_formatXK _ _ _

theorem registerMove (x y : RegIx) : Statement (.registerMove x y) := hasXYN_formatXYN _ _ _ _

theorem registerOr (x y : RegIx) : Statement (.registerOr x y) := hasXYN_formatXYN _ _ _ _

theorem registerAnd (x y : RegIx) : Statement (.registerAnd x y) := hasXYN_formatXYN _ _ _ _

theorem registerXor (x y : RegIx) : Statement (.registerXor x y) := hasXYN_formatXYN _ _ _ _

theorem registerAdd (x y : RegIx) : Statement (.registerAdd x y) := hasXYN_formatXYN _ _ _ _

theorem registerSubtract (x y : RegIx) : Statement (.registerSubtract x y) := hasXYN_formatXYN _ _ _ _

theorem shiftRight (x y : RegIx) : Statement (.shiftRight x y) := hasXYN_formatXYN _ _ _ _

theorem registerSubtractReverse (x y : RegIx) : Statement (.registerSubtractReverse x y) := hasXYN_formatXYN _ _ _ _

theorem shiftLeft (x y : RegIx) : Statement (.shiftLeft x y) := hasXYN_formatXYN _ _ _ _

theorem skipIfRegistersNotEqual (x y : RegIx) : Statement (.skipIfRegistersNotEqual x y) := hasXYN_formatXYN _ _ _ _

theorem loadIndex (addr : BitVec 12) : Statement (.loadIndex addr) := hasA_formatA _ _

theorem jumpWithOffset (addr : BitVec 12) : Statement (.jumpWithOffset addr) := hasA_formatA _ _

theorem randomAnd (x : RegIx) (kk : Byte) : Statement (.randomAnd x kk) := hasXK_formatXK _ _ _

theorem draw (x y : RegIx) (n : BitVec 4) : Statement (.draw x y n) := hasXYN_formatXYN _ _ _ _

theorem skipIfKeyPressed (x : RegIx) : Statement (.skipIfKeyPressed x) := hasXK_formatXK _ _ _

theorem skipIfKeyNotPressed (x : RegIx) : Statement (.skipIfKeyNotPressed x) := hasXK_formatXK _ _ _

theorem readDelayTimer (x : RegIx) : Statement (.readDelayTimer x) := hasXK_formatXK _ _ _

theorem waitForKey (x : RegIx) : Statement (.waitForKey x) := hasXK_formatXK _ _ _

theorem setDelayTimer (x : RegIx) : Statement (.setDelayTimer x) := hasXK_formatXK _ _ _

theorem setSoundTimer (x : RegIx) : Statement (.setSoundTimer x) := hasXK_formatXK _ _ _

theorem addToIndex (x : RegIx) : Statement (.addToIndex x) := hasXK_formatXK _ _ _

theorem loadGlyphAddress (x : RegIx) : Statement (.loadGlyphAddress x) := hasXK_formatXK _ _ _

theorem storeBcd (x : RegIx) : Statement (.storeBcd x) := hasXK_formatXK _ _ _

theorem registerDump (x : RegIx) : Statement (.registerDump x) := hasXK_formatXK _ _ _

theorem registerLoad (x : RegIx) : Statement (.registerLoad x) := hasXK_formatXK _ _ _

theorem unassigned (w : Word) : Statement (.unassigned w) := rfl

end Sys2Proof.Laws.WordFields
end

