-- ==== Sys2Proof/Tests/Slice0.lean ====
section
/-! SUPPORT. The model's own tests: the smoke test of WellFormed; one word of every row of the opcode map, written out from
30_encoding.md R96 and R104; single steps, their results from the vectors of 95_test_vectors.md (named in each docstring);
and a witness for every statement that has hypotheses. -/

namespace Sys2Proof.Tests

open Sys2Proof.Machine

/- One theorem at a time: the many small kernel evaluations below would each hold a thread. -/
set_option Elab.async false

/-! ## Helpers -/

/-- The reset state with some registers set. -/
def start (regs : List (RegIx × Byte)) : State := regs.foldl (fun s p => s.writeV p.1 p.2) State.reset

/-- A state with `I` set and bytes stored there. -/
def pointed (s : State) (a : Nat) (bytes : List Byte) : State :=
  (s.setMem (s.mem.writeBytes a bytes)).setIndex (BitVec.ofNat 16 a)

/-- A state with one key pressed. -/
def pressing (s : State) (k : KeyIx) : State := s.setKeyLatch k true

/-- A state with one framebuffer cell on. -/
def lit (s : State) (r : Row) (c : Col) : State := s.setFb (s.fb.put r c true)

/-- The state after one step that runs the given word, if the step completes. -/
def run (w : Nat) (s : State) : Option State :=
  match step (s.withFetchWord 16 w) with
  | .next t => some t
  | .fault _ => none
  | .refused _ => none

/-- The code and information of the fault of one step that runs the given word, if it faults. -/
def faultOf (w : Nat) (s : State) : Option (Nat × Nat) :=
  match step (s.withFetchWord 16 w) with
  | .next _ => none
  | .fault f => some (f.code, f.info)
  | .refused _ => none

/-! ## WellFormed refuses (30_encoding.md R97, R98) -/

theorem test_wf_systemCall_not_clearDisplay : (Instr.systemCall 0x0E0).wellFormed = false := by decide
theorem test_wf_systemCall_not_return : (Instr.systemCall 0x0EE).wellFormed = false := by decide
theorem test_wf_systemCall : (Instr.systemCall 0x0EF).wellFormed = true := by decide
theorem test_wf_unassigned_family5 : (Instr.unassigned 0x5120).wellFormed = false := by decide
theorem test_wf_unassigned_family8 : (Instr.unassigned 0x812E).wellFormed = false := by decide
theorem test_wf_unassigned_family9 : (Instr.unassigned 0x9120).wellFormed = false := by decide
theorem test_wf_unassigned_familyE : (Instr.unassigned 0xE19E).wellFormed = false := by decide
theorem test_wf_unassigned_familyF : (Instr.unassigned 0xF165).wellFormed = false := by decide
theorem test_wf_unassigned_assigned_family : (Instr.unassigned 0x6000).wellFormed = false := by decide
theorem test_wf_unassigned_all_spaces :
    [0x5121, 0x8128, 0x812F, 0x9121, 0xE19F, 0xF1FF].all (fun w => (Instr.unassigned w).wellFormed) = true := by decide

/-! ## Decoding, row by row (R96, R104) -/

theorem test_decode_clearDisplay : decode 0b0000000011100000 = .clearDisplay := by decide
theorem test_decode_return : decode 0b0000000011101110 = .ret := by decide
theorem test_decode_systemCall : decode 0b0000_0001_1110_0000 = .systemCall 0x1E0 := by decide
theorem test_decode_jump : decode 0b0001_1010_1011_1100 = .jump 0xABC := by decide
theorem test_decode_call : decode 0b0010_1010_1011_1100 = .call 0xABC := by decide
theorem test_decode_skipIfEqualImmediate : decode 0b0011_0011_0010_1010 = .skipIfEqualImmediate 3 0x2A := by decide
theorem test_decode_skipIfNotEqualImmediate :
    decode 0b0100_0011_0010_1010 = .skipIfNotEqualImmediate 3 0x2A := by decide
theorem test_decode_skipIfRegistersEqual : decode 0b0101_0001_0010_0000 = .skipIfRegistersEqual 1 2 := by decide
theorem test_decode_loadImmediate : decode 0b0110_1010_1001_1101 = .loadImmediate 10 0x9D := by decide
theorem test_decode_addImmediate : decode 0b0111_0101_0000_0010 = .addImmediate 5 2 := by decide
theorem test_decode_registerMove : decode 0b1000_1010_1011_0000 = .registerMove 10 11 := by decide
theorem test_decode_registerOr : decode 0b1000_1010_1011_0001 = .registerOr 10 11 := by decide
theorem test_decode_registerAnd : decode 0b1000_1010_1011_0010 = .registerAnd 10 11 := by decide
theorem test_decode_registerXor : decode 0b1000_1010_1011_0011 = .registerXor 10 11 := by decide
theorem test_decode_registerAdd : decode 0b1000_1010_1011_0100 = .registerAdd 10 11 := by decide
theorem test_decode_registerSubtract : decode 0b1000_1010_1011_0101 = .registerSubtract 10 11 := by decide
theorem test_decode_shiftRight : decode 0b1000_0100_0101_0110 = .shiftRight 4 5 := by decide
theorem test_decode_registerSubtractReverse :
    decode 0b1000_1010_1011_0111 = .registerSubtractReverse 10 11 := by decide
theorem test_decode_shiftLeft : decode 0b1000_0100_0101_1110 = .shiftLeft 4 5 := by decide
theorem test_decode_skipIfRegistersNotEqual :
    decode 0b1001_0001_0010_0000 = .skipIfRegistersNotEqual 1 2 := by decide
theorem test_decode_loadIndex : decode 0b1010_0010_1111_0000 = .loadIndex 0x2F0 := by decide
theorem test_decode_jumpWithOffset : decode 0b1011_0011_0000_0000 = .jumpWithOffset 0x300 := by decide
theorem test_decode_randomAnd : decode 0b1100_0011_0000_1111 = .randomAnd 3 0x0F := by decide
theorem test_decode_draw : decode 0b1101_0011_0100_0101 = .draw 3 4 5 := by decide
theorem test_decode_skipIfKeyPressed : decode 0b1110_0001_1001_1110 = .skipIfKeyPressed 1 := by decide
theorem test_decode_skipIfKeyNotPressed : decode 0b1110_0001_1010_0001 = .skipIfKeyNotPressed 1 := by decide
theorem test_decode_readDelayTimer : decode 0b1111_0011_0000_0111 = .readDelayTimer 3 := by decide
theorem test_decode_waitForKey : decode 0b1111_0101_0000_1010 = .waitForKey 5 := by decide
theorem test_decode_setDelayTimer : decode 0b1111_0011_0001_0101 = .setDelayTimer 3 := by decide
theorem test_decode_setSoundTimer : decode 0b1111_0011_0001_1000 = .setSoundTimer 3 := by decide
theorem test_decode_addToIndex : decode 0b1111_0010_0001_1110 = .addToIndex 2 := by decide
theorem test_decode_loadGlyphAddress : decode 0b1111_0001_0010_1001 = .loadGlyphAddress 1 := by decide
theorem test_decode_storeBcd : decode 0b1111_1010_0011_0011 = .storeBcd 10 := by decide
theorem test_decode_registerDump : decode 0b1111_0010_0101_0101 = .registerDump 2 := by decide
theorem test_decode_registerLoad : decode 0b1111_0010_0110_0101 = .registerLoad 2 := by decide
theorem test_decode_unassigned : decode 0b1001_0001_0010_0001 = .unassigned 0x9121 := by decide

/-- The byte decoder takes the high byte first and leaves the rest; too few bytes are refused by name (R90). -/
theorem test_decodeBytes : decodeBytes [0x2A, 0xBC, 0x12] = .ok (.call 0xABC, [0x12]) ∧
    decodeBytes [0x2A] = .error (.tooFewBytes 1) ∧ decodeBytes [] = .error (.tooFewBytes 0) := ⟨rfl, rfl, rfl⟩

theorem test_encode_call : encodeBytes (.call 0xABC) = [0x2A, 0xBC] := by decide
theorem test_decodeTableWord : decodeTableWord 16 0xD345 = some (.draw 3 4 5) := by decide

/-! ## Single steps -/

/-- V1. -/
theorem test_clearDisplay : (run 0x00E0 (lit (start [(15, 1)]) 31 63)).map (fun t => (t.pc, t.fb.cell 31 63, t.readV VF)) =
    some (0x202, false, 1) := by decide +kernel

/-- F9. -/
theorem test_return_full : (run 0x00EE ((State.reset.setSp 16).setLink 15 0xFFE)).map (fun t => (t.pc, t.sp)) =
    some (0x1000, 15) := by decide +kernel

/-- F8. -/
theorem test_return_underflow : faultOf 0x00EE (State.reset.setDelay 3) = some (3, 0x200) := by decide +kernel

/-- T2. -/
theorem test_systemCall_ticks : (run 0x0234 ((State.reset.setDelay 1).setSound 2)).map (fun t => (t.pc, t.dt, t.st)) =
    some (0x202, 0, 1) := by decide +kernel

/-- F1. -/
theorem test_jump : (run 0x1ABC State.reset).map (fun t => t.pc) = some 0xABC := by decide +kernel

/-- F5. -/
theorem test_call_last : (run 0x2300 (State.reset.setSp 15)).map (fun t => (t.pc, t.sp, t.stack[15])) =
    some (0x300, 16, 0x200) := by decide +kernel

/-- F6. -/
theorem test_call_overflow : faultOf 0x2300 (State.reset.setSp 16) = some (2, 0x200) := by decide +kernel

/-- F10, F11. -/
theorem test_skipIfEqualImmediate : (run 0x332A (start [(3, 0x2A)])).map (fun t => t.pc) = some 0x204 ∧
    (run 0x332A (start [(3, 0x2B)])).map (fun t => t.pc) = some 0x202 := by decide +kernel

/-- F12, F13. -/
theorem test_skipIfNotEqualImmediate : (run 0x432A (start [(3, 0x2A)])).map (fun t => t.pc) = some 0x202 ∧
    (run 0x432A State.reset).map (fun t => t.pc) = some 0x204 := by decide +kernel

/-- F14, F15. -/
theorem test_skipIfRegistersEqual : (run 0x5120 (start [(1, 7), (2, 7)])).map (fun t => t.pc) = some 0x204 ∧
    (run 0x5120 (start [(1, 7), (2, 8)])).map (fun t => t.pc) = some 0x202 := by decide +kernel

/-- F17, F18. -/
theorem test_skipIfRegistersNotEqual : (run 0x9120 (start [(1, 7), (2, 8)])).map (fun t => t.pc) = some 0x204 ∧
    (run 0x9120 (start [(1, 7), (2, 7)])).map (fun t => t.pc) = some 0x202 := by decide +kernel

/-- T10: the last address a fetch succeeds at. -/
theorem test_loadImmediate_last_address : (run 0x6001 (State.reset.setPc 0xFFE)).map (fun t => (t.pc, t.readV 0)) =
    some (0x1000, 1) := by decide +kernel

/-- A4: the flag stays 1. -/
theorem test_addImmediate_no_flag : (run 0x7502 (start [(5, 0xFF), (15, 1)])).map (fun t => (t.readV 5, t.readV VF)) =
    some (1, 1) := by decide +kernel

/-- A7. -/
theorem test_registerMove : (run 0x8120 (start [(1, 1), (2, 0x55)])).map (fun t => (t.readV 1, t.readV 2)) =
    some (0x55, 0x55) := by decide +kernel

/-- A8. -/
theorem test_registerOr : (run 0x8121 (start [(1, 0xF0), (2, 0x0F), (15, 1)])).map (fun t => (t.readV 1, t.readV VF)) =
    some (0xFF, 1) := by decide +kernel

/-- A9. -/
theorem test_registerAnd : (run 0x8122 (start [(1, 0xF0), (2, 0x3C), (15, 1)])).map (fun t => (t.readV 1, t.readV VF)) =
    some (0x30, 1) := by decide +kernel

/-- A10. -/
theorem test_registerXor : (run 0x8123 (start [(1, 0xF0), (2, 0x3C), (15, 1)])).map (fun t => (t.readV 1, t.readV VF)) =
    some (0xCC, 1) := by decide +kernel

/-- A13: a sum of exactly 255 carries nothing. -/
theorem test_registerAdd_no_carry : (run 0x8124 (start [(1, 0xFE), (2, 1), (15, 1)])).map
    (fun t => (t.readV 1, t.readV VF)) = some (0xFF, 0) := by decide +kernel

/-- A16: with `x` = 15 the sum remains, not the carry. -/
theorem test_registerAdd_flag_destination : (run 0x8F14 (start [(15, 0xF0), (1, 0x20)])).map (fun t => t.readV VF) =
    some 0x10 := by decide +kernel

/-- A18. -/
theorem test_registerSubtract_borrow : (run 0x8125 (start [(1, 3), (2, 5), (15, 1)])).map
    (fun t => (t.readV 1, t.readV VF)) = some (0xFE, 0) := by decide +kernel

/-- A20: equal operands clear the flag. -/
theorem test_registerSubtract_equal : (run 0x8125 (start [(1, 5), (2, 5), (15, 1)])).map
    (fun t => (t.readV 1, t.readV VF)) = some (0, 0) := by decide +kernel

/-- A26: `V[y]` is ignored. -/
theorem test_shiftRight_in_place : (run 0x8456 (start [(4, 4), (5, 0xFF), (15, 1)])).map
    (fun t => (t.readV 4, t.readV VF)) = some (2, 0) := by decide +kernel

/-- A28. -/
theorem test_registerSubtractReverse : (run 0x8127 (start [(1, 3), (2, 5)])).map (fun t => (t.readV 1, t.readV VF)) =
    some (2, 1) := by decide +kernel

/-- A32. -/
theorem test_shiftLeft : (run 0x840E (start [(4, 0x81)])).map (fun t => (t.readV 4, t.readV VF)) = some (2, 1) := by
  decide +kernel

/-- M2. -/
theorem test_loadIndex : (run 0xAFFF (State.reset.setIndex 0x1234)).map (fun t => t.index) = some 0xFFF := by
  decide +kernel

/-- F21: not reduced modulo 4096. -/
theorem test_jumpWithOffset : (run 0xBFFF (start [(0, 0xFF)])).map (fun t => t.pc) = some 0x10FE := by decide +kernel

/-- A37: whatever the random byte is. -/
theorem test_randomAnd_zero_mask (rnd : Byte) : (randomAndWith rnd 3 0x00 State.reset).readV 3 = 0 := by
  revert rnd; decide

/-- A36. -/
theorem test_randomAnd : (randomAndWith 0xA7 3 0x0F (start [(3, 0xFF)])).readV 3 = 0x07 := by decide +kernel

/-- V4: wrapping in the row; column 63 is the most significant bit. -/
theorem test_draw_wraps : (run 0xD011 (pointed (start [(0, 63)]) 0x300 [0xFE])).map
    (fun t => (t.fb.cell 0 63, t.fb.cell 0 0, t.fb.cell 0 5, t.fb.cell 0 6, t.readV VF)) =
    some (true, true, true, false, 0) := by decide +kernel

/-- V10: the origin is the old VF. -/
theorem test_draw_origin_in_flag : (run 0xDFF1 (pointed (lit (start [(15, 5)]) 5 5) 0x300 [0x80])).map
    (fun t => (t.fb.cell 5 5, t.readV VF)) = some (false, 1) := by decide +kernel

/-- K1, K2. -/
theorem test_skipIfKeyPressed : (run 0xE49E (pressing (start [(4, 10)]) 10)).map (fun t => t.pc) = some 0x204 ∧
    (run 0xE49E (pressing (start [(4, 10)]) 11)).map (fun t => t.pc) = some 0x202 := by decide +kernel

/-- K6. -/
theorem test_skipIfKeyNotPressed_fault : faultOf 0xE4A1 (start [(4, 0xFF)]) = some (4, 255) := by decide +kernel

/-- K3, K4. -/
theorem test_skipIfKeyNotPressed : (run 0xE4A1 (start [(4, 10)])).map (fun t => t.pc) = some 0x204 ∧
    (run 0xE4A1 (pressing (start [(4, 10)]) 10)).map (fun t => t.pc) = some 0x202 := by decide +kernel

/-- K12: the value before the tick. -/
theorem test_readDelayTimer : (run 0xF307 (State.reset.setDelay 0x10)).map (fun t => (t.readV 3, t.dt)) =
    some (0x10, 15) := by decide +kernel

/-- K8. -/
theorem test_waitForKey_least : (run 0xF50A (pressing (pressing (start [(5, 0xEE)]) 7) 3)).map
    (fun t => (t.readV 5, t.pc)) = some (3, 0x202) := by decide +kernel

/-- K9. -/
theorem test_waitForKey_polls : (run 0xF50A (((start [(5, 0xEE)]).setDelay 2).setSound 1)).map
    (fun t => (t.readV 5, t.pc, t.dt, t.st)) = some (0xEE, 0x200, 1, 0) := by decide +kernel

/-- K18. -/
theorem test_setDelayTimer : (run 0xF315 (start [(3, 0xFF)])).map (fun t => (t.dt, t.st)) = some (254, 0) := by
  decide +kernel

/-- K21. -/
theorem test_setSoundTimer : (run 0xF318 ((State.reset.setSound 7).setDelay 7)).map (fun t => (t.dt, t.st)) =
    some (6, 0) := by decide +kernel

/-- M5: modulo 65536, no flag. -/
theorem test_addToIndex : (run 0xF21E ((start [(2, 2)]).setIndex 0xFFFF)).map (fun t => (t.index, t.readV VF)) =
    some (1, 0) := by decide +kernel

/-- M9: the whole byte, times 5. -/
theorem test_loadGlyphAddress : (run 0xF129 (start [(1, 0xFF)])).map (fun t => t.index) = some 0x4FB := by decide +kernel

/-- S8. -/
theorem test_storeBcd : (run 0xF233 ((start [(2, 157)]).setIndex 0x300)).map (fun t => t.mem.readBytes 0x300 3) =
    some [1, 5, 7] := by decide +kernel

/-- M14. -/
theorem test_storeBcd_fault : faultOf 0xF233 ((start [(2, 100)]).setIndex 0xFFE) = some (1, 0x1000) := by decide +kernel

/-- M16. -/
theorem test_registerDump : (run 0xF255 ((start [(0, 1), (1, 2), (2, 3), (3, 4)]).setIndex 0x400)).map
    (fun t => (t.mem.readBytes 0x400 4, t.index)) = some ([1, 2, 3, 0], 0x400) := by decide +kernel

/-- M18. -/
theorem test_registerDump_fault : faultOf 0xF155 ((start [(0, 0xAB)]).setIndex 0xFFF) = some (1, 0x1000) := by
  decide +kernel

/-- M22. -/
theorem test_registerLoad : (run 0xF265 (pointed (start [(3, 0x99)]) 0x400 [10, 11, 12, 13])).map
    (fun t => (t.readV 0, t.readV 2, t.readV 3, t.index)) = some (10, 12, 0x99, 0x400) := by decide +kernel

/-- M23: the default glyph table. -/
theorem test_registerLoad_glyph : (run 0xF065 State.reset).map (fun t => t.readV 0) = some 0xF0 := by decide +kernel

/-- T4, T7. -/
theorem test_unassigned : (run 0x5121 (start [(1, 7), (2, 7)])).map (fun t => t.pc) = some 0x202 ∧
    (run 0xF1FF (State.reset.setIndex 0xFFF)).map (fun t => t.pc) = some 0x202 := by decide +kernel

/-- T11, T13: the fetch at the end of memory. -/
theorem test_fetch_faults : step (State.reset.setPc 0xFFF) = .fault (.outOfBounds 0x1000) ∧
    step ((State.reset.setPc 0x10FE).setDelay 5) = .fault (.outOfBounds 0x10FE) := ⟨rfl, rfl⟩

/-! ## Host transactions -/

/-- L4: the bytes from `0x200` on, the rest of memory and `pc` kept. -/
theorem test_load : (perform defaultGlyphTable (.load [0x12, 0x00])
      ((pointed State.reset 0x200 [0x60, 0x01, 0x61, 0x02]).setPc 0x300)).1.mem.readBytes 0x200 4 =
    [0x12, 0x00, 0x61, 0x02] := by decide +kernel

/-- L5: what `reset()` writes and what it leaves. -/
theorem test_reset : (fun t : State => (t.readV 2, t.pc, t.sp, t.mem.read 0, t.mem.read 0x50, t.fb.cell 0 0, t.keys[1]))
      (hostReset defaultGlyphTable (pressing (lit ((pointed ((start [(2, 5)]).setSp 3) 0x50 [0x77]).setPc 0x2F0) 0 0) 1)) =
    (0, 0x200, 0, 0xF0, 0x77, true, true) := by decide +kernel

/-! ## Witnesses: states and operands that meet the hypotheses of the statements -/

/-- Reset, with a word of a given instruction where the next step fetches. -/
def at200 (s : State) (w : Nat) : State := s.withFetchWord 16 w

theorem witness_DecodeOfEncode : (Instr.systemCall 0x0EF).wellFormed = true ∧ (Instr.unassigned 0xF1FF).wellFormed = true ∧
    (Instr.draw 15 15 15).wellFormed = true := by decide

theorem witness_MatchingIsStrict : (0x00EF#16).toNat / 4096 = 0 ∧ (0x00EF#16).toNat ≠ 0x00E0 ∧ (0x00EF#16).toNat ≠ 0x00EE := by
  decide

/-- Each clause of the unassigned space at a boundary word. -/
theorem witness_MatchingIsStrict_unassigned : [0x5001, 0x5FFF, 0x9001, 0x9FFF, 0x8008, 0x8FFF, 0xE000, 0xEFFF, 0xF000, 0xFFFF].all
    (fun w => decide (decode w = .unassigned w)) = true := by decide

theorem witness_InstructionWords : (0x0EF#12) ≠ 0x0E0 ∧ (0x0EF#12) ≠ 0x0EE := by decide

/-- A fetch succeeds at 4094 and fails at 4095. -/
theorem witness_StepRunsTheFetchedInstruction : Fetches (at200 (State.reset.setPc 4094) 0x6001) 0x6001 ∧
    (State.reset.setPc 4095).pc.toNat + 1 > 4095 := ⟨⟨by decide, by decide +kernel⟩, by decide⟩

/-- Each of the three outcomes but a refusal, which no instruction has. -/
theorem witness_StepRunsTheFetchedInstruction_outcomes :
    (exec (decode 0x6001) State.reset = .next ((State.reset.writeV 0 1).advance)) ∧
    exec (decode 0x00EE) State.reset = .fault (.stackUnderflow 0x200) := ⟨by rfl, by rfl⟩

theorem witness_EveryCompletedStepTicks : Fetches State.reset 0x0000 ∧ step State.reset = .next (tick State.reset.advance) ∧
    (∀ x, decode 0x0000 ≠ .setDelayTimer x) ∧ ∀ x, decode 0x0000 ≠ .setSoundTimer x :=
  ⟨⟨by decide, by decide +kernel⟩, by rfl, by decide, by decide⟩

theorem witness_NewProgramCounter : exec (.jump 0xFFF) State.reset = .next (State.reset.setPc 0xFFF) := rfl

theorem witness_NewProgramCounter_return : (15 : Fin 16).val + 1 = (State.reset.setSp 16).sp.val ∧
    (0 : Fin 16).val + 1 = (State.reset.setSp 1).sp.val := by decide

theorem witness_NewProgramCounter_key : ((start [(4, 15)]).readV 4).toNat = (15 : KeyIx).val ∧
    (State.reset.readV 4).toNat = (0 : KeyIx).val := by decide

/-- Every cause of a fault, at the least value that raises it. -/
theorem witness_FaultCause_fetch : FaultCause (State.reset.setPc 4095) (.outOfBounds 4096) := .fetch (by decide)

theorem witness_FaultCause_draw : FaultCause (at200 (State.reset.setIndex 4095) 0xD012) (.outOfBounds 4096) :=
  .draw (x := 0) (y := 1) (n := 2) ⟨0xD012, ⟨by decide, by decide +kernel⟩, by decide⟩ (by decide) (by decide)

theorem witness_FaultCause_storeBcd : FaultCause (at200 (State.reset.setIndex 4094) 0xF233) (.outOfBounds 4096) :=
  .storeBcd (x := 2) ⟨0xF233, ⟨by decide, by decide +kernel⟩, by decide⟩ (by decide)

theorem witness_FaultCause_registerDump : FaultCause (at200 (State.reset.setIndex 4095) 0xF155) (.outOfBounds 4096) :=
  .registerDump (x := 1) ⟨0xF155, ⟨by decide, by decide +kernel⟩, by decide⟩ (by decide)

theorem witness_FaultCause_registerLoad : FaultCause (at200 (State.reset.setIndex 4095) 0xF165) (.outOfBounds 4096) :=
  .registerLoad (x := 1) ⟨0xF165, ⟨by decide, by decide +kernel⟩, by decide⟩ (by decide)

theorem witness_FaultCause_call : FaultCause (at200 (State.reset.setSp 16) 0x2300) (.stackOverflow 0x200) :=
  .call (addr := 0x300) ⟨0x2300, ⟨by decide, by decide +kernel⟩, by decide⟩ (by decide)

theorem witness_FaultCause_return : FaultCause (at200 State.reset 0x00EE) (.stackUnderflow 0x200) :=
  .ret ⟨0x00EE, ⟨by decide, by decide +kernel⟩, by decide⟩ (by decide)

theorem witness_FaultCause_keyPressed : FaultCause (at200 (start [(4, 16)]) 0xE49E) (.keyIndexOutOfRange 16) :=
  .keyPressed (x := 4) ⟨0xE49E, ⟨by decide, by decide +kernel⟩, by decide⟩ (by decide)

theorem witness_FaultCause_keyNotPressed : FaultCause (at200 (start [(4, 16)]) 0xE4A1) (.keyIndexOutOfRange 16) :=
  .keyNotPressed (x := 4) ⟨0xE4A1, ⟨by decide, by decide +kernel⟩, by decide⟩ (by decide)

/-- Two states with the same unfetchable `pc`, one of which holds a word that would fault when executed. -/
theorem witness_AtMostOneFaultApplies_fetch :
    let s := State.reset.setPc 4095
    let t := (pointed (State.reset.setSp 16) 4095 [0x23]).setPc 4095
    s.pc.toNat + 1 > 4095 ∧ s.pc = t.pc ∧ exec (.call 0x300) t = .fault (.stackOverflow 4095) :=
  ⟨by decide, rfl, rfl⟩

/-- Each instruction's own fault at the least value that raises it. -/
theorem witness_AtMostOneFaultApplies :
    exec (.call 0x300) (State.reset.setSp 16) = .fault (.stackOverflow 0x200) ∧
    exec .ret State.reset = .fault (.stackUnderflow 0x200) ∧
    exec (.draw 0 1 1) (State.reset.setIndex 4096) = .fault (.outOfBounds 4096) ∧
    exec (.storeBcd 2) (State.reset.setIndex 4094) = .fault (.outOfBounds 4096) ∧
    exec (.registerDump 15) (State.reset.setIndex 4081) = .fault (.outOfBounds 4096) ∧
    exec (.registerLoad 15) (State.reset.setIndex 4081) = .fault (.outOfBounds 4096) ∧
    exec (.skipIfKeyPressed 4) (start [(4, 16)]) = .fault (.keyIndexOutOfRange 16) ∧
    exec (.skipIfKeyNotPressed 4) (start [(4, 16)]) = .fault (.keyIndexOutOfRange 16) :=
  ⟨rfl, rfl, rfl, rfl, rfl, rfl, rfl, rfl⟩

theorem reset_fetches_zero {i : Instr} (h : FetchesInstr State.reset i) : i = .systemCall 0 := by
  obtain ⟨w, hw, rfl⟩ := h
  have : w = 0x0000#16 := BitVec.eq_of_toNat_eq (hw.2.trans (by decide +kernel))
  subst this
  decide

/-- No cause of a fault applies to the reset state. -/
theorem witness_EveryFetchedWordExecutes : ∀ f, ¬FaultCause State.reset f := by
  intro f h
  cases h with
  | fetch hp => exact absurd hp (by decide)
  | draw hf => cases reset_fetches_zero hf
  | storeBcd hf => cases reset_fetches_zero hf
  | registerDump hf => cases reset_fetches_zero hf
  | registerLoad hf => cases reset_fetches_zero hf
  | call hf => cases reset_fetches_zero hf
  | ret hf => cases reset_fetches_zero hf
  | keyPressed hf => cases reset_fetches_zero hf
  | keyNotPressed hf => cases reset_fetches_zero hf

theorem witness_FaultingStepChangesNothing : step (State.reset.setPc 4095) = .fault (.outOfBounds 4096) := rfl

/-- Two states that differ in the keypad, a timer and a stack entry, and fault alike. -/
theorem witness_FaultsDependOnFewParts :
    let s := State.reset.setPc 4095
    let t := ((pressing s 3).setDelay 9).setLink 0 7
    s.pc = t.pc ∧ s.index = t.index ∧ s.sp = t.sp ∧ s.v = t.v ∧ s.mem.read s.pc.toNat = t.mem.read s.pc.toNat ∧
      s.mem.read (s.pc.toNat + 1) = t.mem.read (s.pc.toNat + 1) ∧ step s = .fault (.outOfBounds 4096) ∧ s ≠ t :=
  ⟨rfl, rfl, rfl, rfl, rfl, rfl, rfl, by decide⟩

/-- Program P5, at the step of its register-dump. -/
def selfModifying : State := at200 (((start [(0, 0x12), (1, 0x0A)]).setPc 0x206).setIndex 0x208) 0xF155

theorem witness_StoredCodeRunsAtOnce : FetchesInstr selfModifying (.registerDump 1) ∧ 1 ≤ (1 : RegIx).val ∧
    selfModifying.base = selfModifying.pc.toNat + 2 ∧
    (0x120A#16).toNat = (selfModifying.readV 0).toNat * 256 + (selfModifying.readV 1).toNat ∧
    ∃ t, step selfModifying = .next t :=
  ⟨⟨0xF155, ⟨by decide, by decide +kernel⟩, by decide⟩, by decide, by decide, by decide, _, rfl⟩

theorem witness_KeypadIsReadByThreeWrittenByNone : exec (.waitForKey 5) (pressing State.reset 7) =
      .next (((pressing State.reset 7).writeV 5 7).advance) ∧
    (∀ x, Instr.ret ≠ .skipIfKeyPressed x) ∧ (∀ x, Instr.ret ≠ .skipIfKeyNotPressed x) ∧ ∀ x, Instr.ret ≠ .waitForKey x :=
  ⟨by rfl, nofun, nofun, nofun⟩

theorem witness_FramebufferBelongsToTwoInstructions : Instr.ret ≠ .clearDisplay ∧ ∀ x y n, Instr.ret ≠ .draw x y n :=
  ⟨nofun, nofun⟩

theorem witness_IndexKeptByItsUsers : exec (.loadIndex 0xFFF) State.reset = .next (State.reset.setIndex 0xFFF).advance ∧
    (State.reset.setIndex 0xFFF).advance.index ≠ State.reset.index := ⟨rfl, by decide⟩

theorem witness_StackBelongsToCallAndReturn :
    (∃ t, exec .ret (State.reset.setSp 1) = .next t) ∧ (∃ t, exec (.jump 0) State.reset = .next t) ∧
    (∃ t, exec (.call 0) (State.reset.setSp 15) = .next t) ∧ (∀ addr, Instr.ret ≠ .call addr) ∧
    Instr.jump 0 ≠ .ret ∧ ∀ addr, Instr.jump 0 ≠ .call addr :=
  ⟨⟨_, rfl⟩, ⟨_, rfl⟩, ⟨_, rfl⟩, nofun, nofun, nofun⟩

theorem witness_MemoryIsTouchedByFourInstructions : (∃ t, exec (.registerLoad 15) (State.reset.setIndex 4080) = .next t) ∧
    (∀ x, Instr.registerLoad 15 ≠ .storeBcd x) ∧ (∀ x, Instr.registerLoad 15 ≠ .registerDump x) ∧
    (∀ x y n, Instr.ret ≠ .draw x y n) ∧ (∀ x, Instr.ret ≠ .storeBcd x) ∧ (∀ x, Instr.ret ≠ .registerDump x) ∧
    ∀ x, Instr.ret ≠ .registerLoad x :=
  ⟨⟨_, rfl⟩, nofun, nofun, nofun, nofun, nofun, nofun⟩

theorem witness_RegistersWrittenAreThoseNamed :
    (∃ t, exec (.registerAdd 1 2) State.reset = .next t) ∧ 14 ∉ destinations (.registerAdd 1 2) ∧
    (∃ t, exec (.registerLoad 14) State.reset = .next t) ∧ 15 ∉ destinations (.registerLoad 14) :=
  ⟨⟨_, rfl⟩, by decide, ⟨_, rfl⟩, by decide⟩

theorem witness_TimersBelongToTheirInstructions : (∀ x, Instr.ret ≠ .readDelayTimer x) ∧
    (∀ x, Instr.ret ≠ .setDelayTimer x) ∧ ∀ x, Instr.readDelayTimer 0 ≠ .setSoundTimer x := ⟨nofun, nofun, nofun⟩

theorem witness_RandomByteIsUsedByRandomAndAlone : ∀ x kk, Instr.ret ≠ .randomAnd x kk := nofun

theorem witness_NoOperationsOnlyAdvance : FetchesInstr State.reset (.systemCall 0) ∧
    FetchesInstr (at200 State.reset 0x8128) (.unassigned 0x8128) :=
  ⟨⟨0x0000, ⟨by decide, by decide +kernel⟩, by decide⟩, 0x8128, ⟨by decide, by decide +kernel⟩, by decide⟩

theorem witness_ClearDisplayBlanksEveryCell : FetchesInstr (at200 State.reset 0x00E0) .clearDisplay :=
  ⟨0x00E0, ⟨by decide, by decide +kernel⟩, by decide⟩

/-- No row, the last row in bounds, and one row out of bounds. -/
theorem witness_DrawXorsTheSpriteMask : ((0#4).toNat = 0 ∨ (State.reset.setIndex 0xFFFF).base + (0#4).toNat - 1 ≤ 4095) ∧
    ((1#4).toNat = 0 ∨ (State.reset.setIndex 4095).base + (1#4).toNat - 1 ≤ 4095) ∧
    (2#4).toNat ≥ 1 ∧ (State.reset.setIndex 4095).base + (2#4).toNat - 1 > 4095 := by decide

/-- A covered cell that is on, and one covered cell that is off where no other is covered. -/
theorem witness_DrawXorsTheSpriteMask_collision :
    let s := pointed (lit State.reset 0 0) 0x300 [0x80]
    spriteCovers s 0 0 1 0 0 ∧ s.fb.cell 0 0 = true ∧ ¬spriteCovers s 0 0 1 0 1 := by
  refine ⟨⟨0, 0, by decide, by decide, by decide, by decide, by decide +kernel⟩, by decide +kernel, ?_⟩
  rintro ⟨row, col, hrow, hcol, -, hc, hb⟩
  obtain rfl : row = 0 := by omega
  obtain rfl : col = 1 := by
    have : (1 : Nat) = (0 + col) % 64 := hc
    omega
  exact absurd hb (by decide +kernel)

/-- No covered cell is on: a sprite byte of 0 covers nothing. -/
theorem witness_DrawXorsTheSpriteMask_clear : ∀ (r : Row) (c : Col),
    spriteCovers (pointed (lit State.reset 0 0) 0x300 [0x00]) 0 0 1 r c →
    (pointed (lit State.reset 0 0) 0x300 [0x00]).fb.cell r c = false := by
  rintro r c ⟨row, col, hrow, -, -, -, hb⟩
  obtain rfl : row = 0 := by omega
  have hz : (pointed (lit State.reset 0 0) 0x300 [0x00]).mem.read
      ((pointed (lit State.reset 0 0) 0x300 [0x00]).index.toNat + 0) = 0 := by decide +kernel
  rw [hz] at hb
  simp at hb

theorem witness_DrawingTwiceRestores : (0 : RegIx) ≠ VF ∧ (1 : RegIx) ≠ VF ∧
    ∃ t, exec (.draw 0 1 5) State.reset = .next t ∧ ∃ u, exec (.draw 0 1 5) t = .next u :=
  ⟨by decide, by decide, _, rfl, _, rfl⟩

/-- The origins 0, 0 and 64, 32. -/
theorem witness_DrawOriginCountsModuloTheScreen :
    let s := State.reset
    let s' := start [(0, 64), (1, 32)]
    s.index = s'.index ∧ s.mem = s'.mem ∧ s.fb = s'.fb ∧ (s.readV 0).toNat % 64 = (s'.readV 0).toNat % 64 ∧
      (s.readV 1).toNat % 32 = (s'.readV 1).toNat % 32 ∧ (∃ t, exec (.draw 0 1 5) s = .next t) ∧
      ∃ t, exec (.draw 0 1 5) s' = .next t :=
  ⟨rfl, rfl, rfl, by decide, by decide, ⟨_, rfl⟩, _, rfl⟩

theorem witness_CallPushesItsOwnAddress : State.reset.sp.val = (0 : Fin 16).val ∧
    (State.reset.setSp 15).sp.val = (15 : Fin 16).val ∧ (State.reset.setSp 16).sp.val = 16 := by decide

theorem witness_ReturnGoesPastTheCall : (State.reset.setSp 1).sp.val = (0 : Fin 16).val + 1 ∧
    (State.reset.setSp 16).sp.val = (15 : Fin 16).val + 1 ∧ State.reset.sp.val = 0 := by decide

theorem witness_ReturnUndoesCall : ∃ t, exec (.call 0x300) (State.reset.setSp 15) = .next t ∧
    (t.writeV 3 9).sp = t.sp ∧ (t.writeV 3 9).stack = t.stack := ⟨_, rfl, rfl, rfl⟩

theorem witness_flag_not_destination : (14 : RegIx) ≠ VF := by decide

theorem witness_StoreBcdWritesThreeDigits : (State.reset.setIndex 4093).base + 2 ≤ 4095 ∧
    (State.reset.setIndex 4094).base + 2 > 4095 := by decide

theorem witness_RegisterDumpStoresTheBlock : (State.reset.setIndex 4095).base + (0 : RegIx).val ≤ 4095 ∧
    (State.reset.setIndex 4080).base + (15 : RegIx).val ≤ 4095 ∧
    (State.reset.setIndex 4081).base + (15 : RegIx).val > 4095 ∧ (15 : RegIx) ≤ 15 := by decide

theorem witness_RegisterLoadReadsTheBlock : (State.reset.setIndex 4095).base + (0 : RegIx).val ≤ 4095 ∧
    (State.reset.setIndex 4080).base + (15 : RegIx).val ≤ 4095 ∧
    (State.reset.setIndex 4096).base + (0 : RegIx).val > 4095 ∧ (0 : RegIx) ≤ 0 ∧ (0 : RegIx) < 1 := by decide

/-- The registers may hold anything by the time of the load. -/
theorem witness_LoadAfterDumpRestores :
    ∃ t, exec (.registerDump 15) (State.reset.setIndex 4080) = .next t ∧ (t.writeV 3 9).index = t.index ∧
      SameMem t (t.writeV 3 9) := ⟨_, rfl, rfl, fun _ => rfl⟩

theorem witness_KeySkipsReadOneKey : (State.reset.readV 4).toNat = (0 : KeyIx).val ∧
    ((start [(4, 15)]).readV 4).toNat = (15 : KeyIx).val ∧ ((start [(4, 16)]).readV 4).toNat > 15 := by decide

theorem witness_WaitForKeyPollsTheLeastKey : (pressing State.reset 15).keys[(15 : KeyIx)] = true ∧
    (∀ j : KeyIx, j < 15 → (pressing State.reset 15).keys[j] = false) ∧ (pressing State.reset 0).keys[(0 : KeyIx)] = true ∧
    (∀ k : KeyIx, State.reset.keys[k] = false) := by decide

theorem witness_WaitForKeyPollsTheLeastKey_fetched : FetchesInstr (at200 State.reset 0xF50A) (.waitForKey 5) ∧
    ∀ k : KeyIx, (at200 State.reset 0xF50A).keys[k] = false :=
  ⟨⟨0xF50A, ⟨by decide, by decide +kernel⟩, by decide⟩, by decide +kernel⟩

theorem witness_TimerInstructionsAndTheirTick : FetchesInstr (at200 State.reset 0xF307) (.readDelayTimer 3) ∧
    FetchesInstr (at200 State.reset 0xF315) (.setDelayTimer 3) ∧
    FetchesInstr (at200 State.reset 0xF318) (.setSoundTimer 3) :=
  ⟨⟨0xF307, ⟨by decide, by decide +kernel⟩, by decide⟩, ⟨0xF315, ⟨by decide, by decide +kernel⟩, by decide⟩,
    0xF318, ⟨by decide, by decide +kernel⟩, by decide⟩

theorem witness_ResetIsIdempotent : (at200 State.reset 0x6001).mem.wf = true := by decide +kernel

theorem witness_LoadIsAllOrNothing : ([] : List Byte).length ≤ 3584 ∧ (List.replicate 3584 (0xAA : Byte)).length ≤ 3584 ∧
    (List.replicate 3585 (0xAA : Byte)).length > 3584 := by
  simp only [List.length_nil, List.length_replicate]
  decide

theorem witness_HostPorts : (1 : KeyIx) ≠ 0 := by decide

/-- The invariant at the largest `pc` a run can reach, and with 16 links in use. -/
theorem witness_StepKeepsInvariant : State.reset.Inv ∧ (State.reset.setPc 4350).Inv ∧ (State.reset.setSp 16).Inv ∧
    ∃ t, step State.reset = .next t :=
  ⟨⟨rfl, by decide, by decide⟩, ⟨rfl, by decide, by decide⟩, ⟨rfl, by decide, by decide⟩, _, rfl⟩

theorem witness_EveryRunKeepsInvariant : Memory.wf [(0x200, 0x60), (0xFFF, 0x01)] = true ∧ Memory.wf [] = true := by
  decide +kernel

/-- A state with the invariant at each end of the unfetchable `pc` that a run can reach. -/
theorem witness_EveryRunKeepsInvariant_fetch : (State.reset.setPc 4095).Inv ∧ (State.reset.setPc 4095).pc.toNat + 1 > 4095 ∧
    (State.reset.setPc 4350).Inv ∧ (State.reset.setPc 4350).pc.toNat + 1 > 4095 :=
  ⟨⟨rfl, by decide, by decide⟩, by decide, ⟨rfl, by decide, by decide⟩, by decide⟩

theorem witness_CanonicalMemoriesAreExtensional : Memory.wf [(0x200, 0x60)] = true ∧
    (∀ a, Memory.read [(0x200, 0x60)] a = Memory.read [(0x200, 0x60)] a) ∧ (0x200 : Nat) < 4096 :=
  ⟨by decide +kernel, fun _ => rfl, by decide⟩

end Sys2Proof.Tests
end

section
/-! PROOFS. The parts of the state that only some instructions use: one non-interference lemma for all of them, and the
frame it gives. -/

namespace Sys2Proof.Machine

/-! ## Replacing one part of the state -/

/-- The parts of the state that most instructions neither read nor write. -/
inductive Part where
  | stack | sp | delay | sound | mem | fb | keys | draws
deriving DecidableEq

/-- `s` with one part taken from `r`. -/
def replacePart (p : Part) (r s : State) : State :=
  match p with
  | .stack => { s with stack := r.stack }
  | .sp => { s with sp := r.sp }
  | .delay => { s with dt := r.dt }
  | .sound => { s with st := r.st }
  | .mem => { s with mem := r.mem }
  | .fb => { s with fb := r.fb }
  | .keys => { s with keys := r.keys }
  | .draws => { s with draws := r.draws }

/-- The parts that an instruction reads or writes (10_state.md R27 to R38). -/
def partsUsed : Instr → List Part
  | .clearDisplay => [.fb]
  | .ret | .call _ => [.stack, .sp]
  | .randomAnd _ _ => [.draws]
  | .draw _ _ _ => [.mem, .fb]
  | .skipIfKeyPressed _ | .skipIfKeyNotPressed _ | .waitForKey _ => [.keys]
  | .readDelayTimer _ | .setDelayTimer _ => [.delay]
  | .setSoundTimer _ => [.sound]
  | .storeBcd _ | .registerDump _ | .registerLoad _ => [.mem]
  | .systemCall _ | .jump _ | .jumpWithOffset _ | .unassigned _ => []
  | .skipIfEqualImmediate _ _ | .skipIfNotEqualImmediate _ _ => []
  | .skipIfRegistersEqual _ _ | .skipIfRegistersNotEqual _ _ => []
  | .loadImmediate _ _ | .addImmediate _ _ | .registerMove _ _ => []
  | .registerOr _ _ | .registerAnd _ _ | .registerXor _ _ => []
  | .registerAdd _ _ | .registerSubtract _ _ | .registerSubtractReverse _ _ => []
  | .shiftRight _ _ | .shiftLeft _ _ => []
  | .loadIndex _ | .addToIndex _ | .loadGlyphAddress _ => []

section Replace

variable (p : Part) (r s : State)

/-! No part holds a register, `pc` or `I`: they read as before, and writing them commutes with the replacement. -/

@[simp] theorem replacePart_pc : (replacePart p r s).pc = s.pc := by cases p <;> rfl
@[simp] theorem replacePart_index : (replacePart p r s).index = s.index := by cases p <;> rfl
@[simp] theorem replacePart_v : (replacePart p r s).v = s.v := by cases p <;> rfl

@[simp] theorem readV_replacePart (x : RegIx) : (replacePart p r s).readV x = s.readV x := by
  simp [State.readV]

@[simp] theorem writeV_replacePart (x : RegIx) (b : Byte) :
    (replacePart p r s).writeV x b = replacePart p r (s.writeV x b) := by cases p <;> rfl

@[simp] theorem writeFlagged_replacePart (x : RegIx) (f b : Byte) :
    (replacePart p r s).writeFlagged x f b = replacePart p r (s.writeFlagged x f b) := by
  simp [State.writeFlagged]

@[simp] theorem setRegs_replacePart (w : Vector Byte 16) :
    (replacePart p r s).setRegs w = replacePart p r (s.setRegs w) := by cases p <;> rfl

@[simp] theorem setPc_replacePart (w : Word) :
    (replacePart p r s).setPc w = replacePart p r (s.setPc w) := by cases p <;> rfl

@[simp] theorem setIndex_replacePart (w : Word) :
    (replacePart p r s).setIndex w = replacePart p r (s.setIndex w) := by cases p <;> rfl

@[simp] theorem advance_replacePart : (replacePart p r s).advance = replacePart p r s.advance := by
  simp [State.advance]

@[simp] theorem skipIf_replacePart (c : Bool) :
    (replacePart p r s).skipIf c = replacePart p r (s.skipIf c) := by cases c <;> simp [State.skipIf]

/-- Replacing a part by what it holds changes nothing. -/
@[simp] theorem replacePart_self : replacePart p s s = s := by cases p <;> rfl

end Replace

/-- The stack and `SP` apart, a push does the same whatever a part holds. -/
theorem push?_replacePart {p : Part} (hstack : p ≠ .stack) (hsp : p ≠ .sp) (r s : State) (w : Word) :
    (replacePart p r s).push? w = (s.push? w).map (replacePart p r) := by
  unfold State.push?
  cases p with
  | stack => exact absurd rfl hstack
  | sp => exact absurd rfl hsp
  | _ => rw [apply_dite (Option.map _)]; rfl

/-- The stack and `SP` apart, a pop does the same whatever a part holds. -/
theorem pop?_replacePart {p : Part} (hstack : p ≠ .stack) (hsp : p ≠ .sp) (r s : State) :
    (replacePart p r s).pop? = s.pop?.map (Prod.map id (replacePart p r)) := by
  unfold State.pop?
  cases p with
  | stack => exact absurd rfl hstack
  | sp => exact absurd rfl hsp
  | _ => rw [apply_dite (Option.map _)]; rfl

theorem keys_replacePart {p : Part} (h : p ≠ .keys) (r s : State) : (replacePart p r s).keys = s.keys := by
  cases p with
  | keys => exact absurd rfl h
  | _ => rfl

theorem mem_replacePart {p : Part} (h : p ≠ .mem) (r s : State) : (replacePart p r s).mem = s.mem := by
  cases p with
  | mem => exact absurd rfl h
  | _ => rfl

theorem setMem_replacePart {p : Part} (h : p ≠ .mem) (r s : State) (m : Memory) :
    (replacePart p r s).setMem m = replacePart p r (s.setMem m) := by
  cases p with
  | mem => exact absurd rfl h
  | _ => rfl

/-! ## Non-interference -/

@[simp] theorem mapNext_next (f : State → State) (t : State) : mapNext f (.next t) = .next (f t) := rfl
@[simp] theorem mapNext_raise (f : State → State) (e : Fault) : mapNext f (raise e) = raise e := rfl

@[simp] theorem mapNext_guardRange (f : State → State) (base count : Nat) (t : State) :
    mapNext f (guardRange base count t) = guardRange base count (f t) := by
  unfold guardRange
  split <;> rfl

/-- An instruction does the same, whatever a part that it does not use holds, and leaves that part as it is. -/
theorem exec_replacePart {i : Instr} {p : Part} (h : p ∉ partsUsed i) (r s : State) :
    exec i (replacePart p r s) = mapNext (replacePart p r) (exec i s) := by
  cases i with
  | systemCall | unassigned => simp [exec, execSystemCall, execUnassigned]
  | jump | jumpWithOffset => simp [exec, execJump, execJumpWithOffset]
  | skipIfEqualImmediate | skipIfNotEqualImmediate | skipIfRegistersEqual | skipIfRegistersNotEqual =>
    simp [exec, execSkipIfEqualImmediate, execSkipIfNotEqualImmediate, execSkipIfRegistersEqual,
      execSkipIfRegistersNotEqual]
  | loadImmediate | addImmediate | registerMove | registerOr | registerAnd | registerXor =>
    simp [exec, execLoadImmediate, execAddImmediate, execRegisterMove, execRegisterOr, execRegisterAnd,
      execRegisterXor]
  | registerAdd | registerSubtract | registerSubtractReverse | shiftRight | shiftLeft =>
    simp [exec, execRegisterAdd, execRegisterSubtract, execRegisterSubtractReverse, execShiftRight, execShiftLeft]
  | loadIndex | addToIndex | loadGlyphAddress =>
    simp [exec, execLoadIndex, execAddToIndex, execLoadGlyphAddress]
  | clearDisplay =>
    cases p with
    | fb => simp [partsUsed] at h
    | _ => rfl
  | draw x y n =>
    rw [exec, exec, execDraw, execDraw, mapNext_guardRange]
    cases p with
    | mem | fb => simp [partsUsed] at h
    | _ => rfl
  | storeBcd x | registerDump x | registerLoad x =>
    have hmem : p ≠ .mem := by simpa [partsUsed] using h
    simp [exec, execStoreBcd, execRegisterDump, execRegisterLoad, State.base, State.regBlock, State.loadedBlock,
      mem_replacePart hmem, setMem_replacePart hmem]
  | ret =>
    obtain ⟨hstack, hsp⟩ : p ≠ .stack ∧ p ≠ .sp := by simpa [partsUsed] using h
    cases hpop : s.pop? <;> simp [exec, execRet, pop?_replacePart hstack hsp, hpop]
  | call addr =>
    obtain ⟨hstack, hsp⟩ : p ≠ .stack ∧ p ≠ .sp := by simpa [partsUsed] using h
    cases hpush : s.push? s.pc <;> simp [exec, execCall, push?_replacePart hstack hsp, hpush]
  | skipIfKeyPressed x | skipIfKeyNotPressed x =>
    have hkeys : p ≠ .keys := by simpa [partsUsed] using h
    cases hkey : keyOfByte (s.readV x) <;>
      simp [exec, execSkipIfKeyPressed, execSkipIfKeyNotPressed, keys_replacePart hkeys, hkey]
  | waitForKey x =>
    have hkeys : p ≠ .keys := by simpa [partsUsed] using h
    cases hkey : s.keys.firstPressed <;> simp [exec, execWaitForKey, keys_replacePart hkeys, hkey]
  | randomAnd x kk =>
    cases p with
    | draws => simp [partsUsed] at h
    | _ => rfl
  | readDelayTimer x | setDelayTimer x =>
    cases p with
    | delay => simp [partsUsed] at h
    | _ => rfl
  | setSoundTimer x =>
    cases p with
    | sound => simp [partsUsed] at h
    | _ => rfl

/-- A completed instruction leaves every part that it does not use as it was. -/
theorem exec_keepsPart {i : Instr} {p : Part} {s t : State} (h : p ∉ partsUsed i) (hn : exec i s = .next t) :
    t = replacePart p s t := by
  have hr := exec_replacePart h s s
  rw [replacePart_self, hn, mapNext_next] at hr
  exact Host.Outcome.next.inj hr

end Sys2Proof.Machine
end

section
/-! PROOFS. Who uses each part of the state (10_state.md section 1). -/

namespace Sys2Proof.Machine

/-! ## The users of each part -/

section Users

variable {i : Instr}

theorem stack_mem_partsUsed : .stack ∈ partsUsed i ↔ i = .ret ∨ ∃ addr, i = .call addr := by
  cases i <;> simp [partsUsed]

theorem sp_mem_partsUsed : .sp ∈ partsUsed i ↔ i = .ret ∨ ∃ addr, i = .call addr := by
  cases i <;> simp [partsUsed]

theorem delay_mem_partsUsed :
    .delay ∈ partsUsed i ↔ (∃ x, i = .readDelayTimer x) ∨ ∃ x, i = .setDelayTimer x := by
  cases i <;> simp [partsUsed]

theorem sound_mem_partsUsed : .sound ∈ partsUsed i ↔ ∃ x, i = .setSoundTimer x := by
  cases i <;> simp [partsUsed]

theorem mem_mem_partsUsed : .mem ∈ partsUsed i ↔ (∃ x y n, i = .draw x y n) ∨ (∃ x, i = .storeBcd x) ∨
    (∃ x, i = .registerDump x) ∨ ∃ x, i = .registerLoad x := by
  cases i <;> simp [partsUsed]

theorem fb_mem_partsUsed : .fb ∈ partsUsed i ↔ i = .clearDisplay ∨ ∃ x y n, i = .draw x y n := by
  cases i <;> simp [partsUsed]

theorem keys_mem_partsUsed : .keys ∈ partsUsed i ↔ (∃ x, i = .skipIfKeyPressed x) ∨
    (∃ x, i = .skipIfKeyNotPressed x) ∨ ∃ x, i = .waitForKey x := by
  cases i <;> simp [partsUsed]

theorem draws_mem_partsUsed : .draws ∈ partsUsed i ↔ ∃ x kk, i = .randomAnd x kk := by
  cases i <;> simp [partsUsed]

end Users

/-! ## What a completed instruction leaves unchanged -/

section Frames

variable {i : Instr} {s t : State}

theorem exec_keys (h : exec i s = .next t) : t.keys = s.keys := by
  by_cases hu : .keys ∈ partsUsed i
  · rcases keys_mem_partsUsed.1 hu with ⟨x, rfl⟩ | ⟨x, rfl⟩ | ⟨x, rfl⟩
    · obtain ⟨k, -, rfl⟩ := execSkipIfKeyPressed_next h
      simp
    · obtain ⟨k, -, rfl⟩ := execSkipIfKeyNotPressed_next h
      simp
    · rcases execWaitForKey_next h with ⟨k, -, -, rfl⟩ | ⟨-, rfl⟩ <;> simp
  · exact (congrArg State.keys (exec_keepsPart hu h)).trans rfl

theorem exec_stack (h : exec i s = .next t) (hcall : ∀ addr, i ≠ .call addr) : t.stack = s.stack := by
  by_cases hret : i = .ret
  · subst hret
    obtain ⟨-, rfl⟩ := execRet_next h
    rfl
  · have hu : .stack ∉ partsUsed i := by simp [stack_mem_partsUsed, hret, hcall]
    exact (congrArg State.stack (exec_keepsPart hu h)).trans rfl

theorem exec_sp (h : exec i s = .next t) (hcall : ∀ addr, i ≠ .call addr) (hret : i ≠ .ret) : t.sp = s.sp := by
  have hu : .sp ∉ partsUsed i := by simp [sp_mem_partsUsed, hret, hcall]
  exact (congrArg State.sp (exec_keepsPart hu h)).trans rfl

theorem exec_mem (h : exec i s = .next t) (hbcd : ∀ x, i ≠ .storeBcd x) (hdump : ∀ x, i ≠ .registerDump x) :
    t.mem = s.mem := by
  by_cases hu : .mem ∈ partsUsed i
  · rcases mem_mem_partsUsed.1 hu with ⟨x, y, n, rfl⟩ | ⟨x, rfl⟩ | ⟨x, rfl⟩ | ⟨x, rfl⟩
    · obtain ⟨-, rfl⟩ := execDraw_next h
      rfl
    · exact absurd rfl (hbcd x)
    · exact absurd rfl (hdump x)
    · obtain ⟨-, rfl⟩ := execRegisterLoad_next h
      rfl
  · exact (congrArg State.mem (exec_keepsPart hu h)).trans rfl

end Frames

/-! ## The obligations -/

/-- Settles O16: an instruction that does not use the latch keeps it, and the three that read it do too. -/
theorem keypadIsReadByThreeWrittenByNone : Obligations.KeypadIsReadByThreeWrittenByNone := by
  refine ⟨fun i s t h => exec_keys h, fun g s => rfl, fun i s k hpressed hnot hwait => ?_⟩
  exact exec_replacePart (p := .keys) (by simp [keys_mem_partsUsed, hpressed, hnot, hwait]) { s with keys := k } s

/-- Settles O17, by non-interference of the framebuffer. -/
theorem framebufferBelongsToTwoInstructions : Obligations.FramebufferBelongsToTwoInstructions := by
  refine ⟨fun g s => rfl, fun i s f hclear hdraw => ?_⟩
  exact exec_replacePart (p := .fb) (by simp [fb_mem_partsUsed, hclear, hdraw]) { s with fb := f } s

/-- Settles O19: the frames of the stack and `SP`, what return and call do to them, and non-interference of the
entries. -/
theorem stackBelongsToCallAndReturn : Obligations.StackBelongsToCallAndReturn := by
  refine ⟨fun i s t h hcall => ⟨exec_stack h hcall, exec_sp h hcall, ?_⟩, fun addr s t h => ?_,
    fun i s k hret hcall => ?_⟩
  · rintro rfl
    obtain ⟨hpos, rfl⟩ := execRet_next h
    exact Nat.sub_add_cancel hpos
  · obtain ⟨hlt, rfl⟩ := execCall_next h
    refine ⟨rfl, fun j hj => ?_⟩
    exact Vector.getElem_set_ne hlt j.isLt (Ne.symm hj)
  · exact exec_replacePart (p := .stack) (by simp [stack_mem_partsUsed, hret, hcall]) { s with stack := k } s

/-- Settles O20, by non-interference of memory and its frame. -/
theorem memoryIsTouchedByFourInstructions : Obligations.MemoryIsTouchedByFourInstructions := by
  refine ⟨fun i s m hdraw hbcd hdump hload => ?_, fun i s t h hbcd hdump a => ?_⟩
  · exact exec_replacePart (p := .mem) (by simp [mem_mem_partsUsed, hdraw, hbcd, hdump, hload]) { s with mem := m } s
  · rw [exec_mem h hbcd hdump]

/-- Settles O22, by non-interference of each timer; a set instruction overwrites the timer it is given. -/
theorem timersBelongToTheirInstructions : Obligations.TimersBelongToTheirInstructions := by
  refine ⟨fun i s b hread hset => ?_, fun i s b hset => ?_, fun x s b => ⟨rfl, rfl⟩⟩
  · exact exec_replacePart (p := .delay) (by simp [delay_mem_partsUsed, hread, hset]) { s with dt := b } s
  · exact exec_replacePart (p := .sound) (by simp [sound_mem_partsUsed, hset]) { s with st := b } s

/-- Settles O23, by non-interference of the draw counter. -/
theorem randomByteIsUsedByRandomAndAlone : Obligations.RandomByteIsUsedByRandomAndAlone := by
  intro i s d hrandom
  exact exec_replacePart (p := .draws) (by simp [draws_mem_partsUsed, hrandom]) { s with draws := d } s

/-- Settles O21, by the class of the instruction: what it writes to the registers it writes to `destinations`. -/
theorem registersWrittenAreThoseNamed : Obligations.RegistersWrittenAreThoseNamed := by
  intro i s t h j hj
  cases i with
  | loadImmediate x kk | addImmediate x kk | randomAnd x kk | registerMove x y | registerOr x y | registerAnd x y
  | registerXor x y | readDelayTimer x =>
    have hx : j ≠ x := by simpa [destinations] using hj
    cases h
    simp [randomAndWith, hx]
  | registerAdd x y | registerSubtract x y | registerSubtractReverse x y | shiftRight x y | shiftLeft x y =>
    obtain ⟨hx, hvf⟩ : j ≠ x ∧ j ≠ VF := by simpa [destinations] using hj
    cases h
    simp [State.readV_writeFlagged, hx, hvf]
  | draw x y n =>
    have hvf : j ≠ VF := by simpa [destinations] using hj
    obtain ⟨-, rfl⟩ := execDraw_next h
    simp [hvf]
  | waitForKey x =>
    have hx : j ≠ x := by simpa [destinations] using hj
    rcases execWaitForKey_next h with ⟨k, -, -, rfl⟩ | ⟨-, rfl⟩
    · simp [hx]
    · rfl
  | registerLoad x =>
    have hx : ¬j.val ≤ x.val := by simpa [destinations] using hj
    obtain ⟨-, rfl⟩ := execRegisterLoad_next h
    exact (State.getElem_loadedBlock s x s.base j).trans (if_neg hx)
  | ret =>
    obtain ⟨-, rfl⟩ := execRet_next h
    rfl
  | call addr =>
    obtain ⟨-, rfl⟩ := execCall_next h
    rfl
  | storeBcd | registerDump =>
    obtain ⟨-, rfl⟩ := guardRange_next h
    rfl
  | skipIfKeyPressed x =>
    obtain ⟨k, -, rfl⟩ := execSkipIfKeyPressed_next h
    simp
  | skipIfKeyNotPressed x =>
    obtain ⟨k, -, rfl⟩ := execSkipIfKeyNotPressed_next h
    simp
  | skipIfEqualImmediate | skipIfNotEqualImmediate | skipIfRegistersEqual | skipIfRegistersNotEqual =>
    cases h
    simp
  | clearDisplay | systemCall | unassigned | jump | jumpWithOffset | loadIndex | addToIndex | loadGlyphAddress
  | setDelayTimer | setSoundTimer =>
    cases h
    rfl

end Sys2Proof.Machine
end

section
/-! PROOFS. The invariant: what a step does to `pc`, to the links in use and to the canonical form of memory
(10_state.md R24(d), 42_control_flow.md R150), and every transaction of the host. -/

namespace Sys2Proof.Machine

/-! ## Where `pc` can go -/

/-- The values that `pc` can have after an instruction (40_step_cycle.md R125). -/
inductive NextPc (s : State) : Word → Prop where
  | stay : NextPc s s.pc
  | advance : NextPc s (s.pc + 2)
  | skip : NextPc s (s.pc + 4)
  | jump (addr : BitVec 12) : NextPc s (zextAddr addr)
  | offset (addr : BitVec 12) : NextPc s (zextAddr addr + zextByte (s.readV 0))
  | ret (j : Fin 16) (hj : j.val < s.sp.val) : NextPc s (s.stack[j] + 2)

theorem skipIf_nextPc (s : State) (c : Bool) : NextPc s (s.skipIf c).pc := by
  cases c with
  | false => exact .advance
  | true => exact .skip

section Exec

variable {i : Instr} {s t : State}

theorem exec_nextPc (h : exec i s = .next t) : NextPc s t.pc := by
  cases i with
  | ret =>
    obtain ⟨hpos, rfl⟩ := execRet_next h
    exact .ret ⟨s.sp.val - 1, by omega⟩ (Nat.sub_one_lt_of_lt hpos)
  | call addr =>
    obtain ⟨-, rfl⟩ := execCall_next h
    exact .jump addr
  | jump addr =>
    cases h
    exact .jump addr
  | jumpWithOffset addr =>
    cases h
    exact .offset addr
  | skipIfEqualImmediate | skipIfNotEqualImmediate | skipIfRegistersEqual | skipIfRegistersNotEqual =>
    cases h
    exact skipIf_nextPc s _
  | skipIfKeyPressed x =>
    obtain ⟨k, -, rfl⟩ := execSkipIfKeyPressed_next h
    exact skipIf_nextPc s _
  | skipIfKeyNotPressed x =>
    obtain ⟨k, -, rfl⟩ := execSkipIfKeyNotPressed_next h
    exact skipIf_nextPc s _
  | waitForKey x =>
    rcases execWaitForKey_next h with ⟨k, -, -, rfl⟩ | ⟨-, rfl⟩
    · exact .advance
    · exact .stay
  | draw | storeBcd | registerDump | registerLoad =>
    obtain ⟨-, rfl⟩ := guardRange_next h
    exact .advance
  | clearDisplay | systemCall | unassigned | loadImmediate | addImmediate | registerMove | registerOr | registerAnd
  | registerXor | registerAdd | registerSubtract | registerSubtractReverse | shiftRight | shiftLeft | loadIndex
  | addToIndex | loadGlyphAddress | randomAnd | readDelayTimer | setDelayTimer | setSoundTimer =>
    cases h
    exact .advance

/-! ## What an instruction keeps -/

/-- The largest value is that of jump-with-offset, 4095 + 255 (R24(d)). -/
theorem State.Inv.nextPc_le (hs : s.Inv) (hp : s.pc.toNat ≤ 4094) {p : Word} (h : NextPc s p) : p.toNat ≤ 4350 := by
  cases h with
  | stay => omega
  | advance => bv_omega
  | skip => bv_omega
  | jump addr =>
    have haddr := addr.isLt
    rw [toNat_zextAddr]
    omega
  | offset addr =>
    have haddr := addr.isLt
    have hv := (s.readV 0).isLt
    rw [BitVec.toNat_add, toNat_zextAddr, toNat_zextByte]
    omega
  | ret j hj =>
    have hlink := hs.linksFetchable j hj
    bv_omega

/-- Call pushes its own address, which was fetched; return uses one link less; the others keep the stack. -/
theorem exec_linksFetchable (hs : s.Inv) (hp : s.pc.toNat ≤ 4094) (h : exec i s = .next t) (j : Fin 16)
    (hj : j.val < t.sp.val) : t.stack[j].toNat ≤ 4094 := by
  by_cases hcall : ∃ addr, i = .call addr
  · obtain ⟨addr, rfl⟩ := hcall
    obtain ⟨hlt, rfl⟩ := execCall_next h
    by_cases hnew : s.sp.val = j.val
    · simpa [hnew] using hp
    · have hold : j.val < s.sp.val := Nat.lt_of_le_of_ne (Nat.le_of_lt_succ hj) (Ne.symm hnew)
      simpa [hnew] using hs.linksFetchable j hold
  · have hcall' : ∀ addr, i ≠ .call addr := fun addr hi => hcall ⟨addr, hi⟩
    rw [exec_stack h hcall']
    by_cases hret : i = .ret
    · subst hret
      obtain ⟨hpos, rfl⟩ := execRet_next h
      exact hs.linksFetchable j (Nat.lt_of_lt_pred hj)
    · rw [exec_sp h hcall' hret] at hj
      exact hs.linksFetchable j hj

/-- Store-BCD and register-dump write inside the address space; no other instruction writes memory. -/
theorem exec_memCanonical (hs : s.mem.wf = true) (h : exec i s = .next t) : t.mem.wf = true := by
  by_cases hbcd : ∃ x, i = .storeBcd x
  · obtain ⟨x, rfl⟩ := hbcd
    obtain ⟨hrange, rfl⟩ := execStoreBcd_next h
    exact Memory.wf_writeBytes _ hs hrange
  · by_cases hdump : ∃ x, i = .registerDump x
    · obtain ⟨x, rfl⟩ := hdump
      obtain ⟨hrange, rfl⟩ := execRegisterDump_next h
      exact Memory.wf_writeBytes _ hs (by rwa [State.length_regBlock])
    · rwa [exec_mem h (fun x hi => hbcd ⟨x, hi⟩) (fun x hi => hdump ⟨x, hi⟩)]

theorem exec_inv (hs : s.Inv) (hp : s.pc.toNat ≤ 4094) (h : exec i s = .next t) : t.Inv where
  memCanonical := exec_memCanonical hs.memCanonical h
  pcReachable := hs.nextPc_le hp (exec_nextPc h)
  linksFetchable := exec_linksFetchable hs hp h

end Exec

/-! ## Steps -/

/-- A step that completes has fetched, executed and ticked. -/
theorem step_next {s u : State} (h : step s = .next u) :
    s.pc.toNat ≤ 4094 ∧ ∃ i t, exec i s = .next t ∧ u = tick t := by
  have hp : s.pc.toNat ≤ 4094 := by
    by_contra hp
    rw [step_of_unfetchable (Nat.lt_of_not_le hp)] at h
    cases h
  rw [step_of_fetchable hp] at h
  split at h
  · next t ht => exact ⟨hp, _, t, ht, (Host.Outcome.next.inj h).symm⟩
  · cases h
  · cases h

theorem State.Inv.tick {s : State} (hs : s.Inv) : (tick s).Inv :=
  ⟨hs.memCanonical, hs.pcReachable, hs.linksFetchable⟩

theorem step_inv {s u : State} (hs : s.Inv) (h : step s = .next u) : u.Inv := by
  obtain ⟨hp, i, t, ht, rfl⟩ := step_next h
  exact (exec_inv hs hp ht).tick

/-- Settles O54: `exec` keeps each of the three properties, and the tick touches none of them. -/
theorem stepKeepsInvariant : Obligations.StepKeepsInvariant := fun _ _ hs h => step_inv hs h

/-! ## Host transactions -/

theorem GlyphTable.length_bytes (g : GlyphTable) : (GlyphTable.bytes g).length = 80 := by
  simp [GlyphTable.bytes, List.length_flatMap]

/-- After `reset()` only the memory has anything to show: `pc` is `0x200` and no link is in use. -/
theorem hostReset_inv (g : GlyphTable) {s : State} (hs : s.mem.wf = true) : (hostReset g s).Inv where
  memCanonical := Memory.wf_writeBytes _ hs (by rw [GlyphTable.length_bytes]; decide)
  pcReachable := (by decide : (BitVec.ofNat 16 Config.progBase).toNat ≤ 4350)
  linksFetchable _ hj := absurd hj (Nat.not_lt_zero _)

theorem hostLoad_inv {bytes : List Byte} {s t : State} (hs : s.Inv) (h : hostLoad bytes s = .ok t) : t.Inv := by
  unfold hostLoad at h
  split at h
  · cases h
  · next hlen =>
    cases h
    refine ⟨Memory.wf_writeBytes _ hs.memCanonical ?_, hs.pcReachable, hs.linksFetchable⟩
    simp only [Config.romMax, Config.progBase] at hlen ⊢
    omega

theorem hostSetKey_inv (k : KeyIx) (pressed : Bool) {s : State} (hs : s.Inv) : (hostSetKey k pressed s).Inv :=
  ⟨hs.memCanonical, hs.pcReachable, hs.linksFetchable⟩

theorem perform_inv (g : GlyphTable) (t : Transaction) {s : State} (hs : s.Inv) : (perform g t s).1.Inv := by
  cases t with
  | step =>
    cases h : step s with
    | next u => simpa [perform, h] using step_inv hs h
    | fault f => simpa [perform, h] using hs
    | refused r => simpa [perform, h] using hs
  | reset => exact hostReset_inv g hs.memCanonical
  | load bytes =>
    cases h : hostLoad bytes s with
    | ok u => simpa [perform, h] using hostLoad_inv hs h
    | romTooLarge => simpa [perform, h] using hs
  | setKey k pressed => exact hostSetKey_inv k pressed hs

theorem runTransactions_inv (g : GlyphTable) (ts : List Transaction) {s : State} (hs : s.Inv) :
    (runTransactions g ts s).Inv := by
  induction ts generalizing s with
  | nil => exact hs
  | cons t ts ih => exact ih (perform_inv g t hs)

theorem powerOn_inv (g : GlyphTable) {m : Memory} (f : Framebuffer) (k : Keypad) (hm : m.wf = true) :
    (powerOn g m f k).Inv := hostReset_inv g hm

/-- Settles O53: the reset state has canonical memory and no link, and power-on is a `reset()`. -/
theorem invariantAtPowerOn : Obligations.InvariantAtPowerOn :=
  ⟨⟨Memory.wf_nil, by decide, fun _ hj => absurd hj (Nat.not_lt_zero _)⟩, fun g _ f k hm => powerOn_inv g f k hm⟩

/-- Settles O55: each transaction keeps the invariant, a run by induction on its transactions; and the address of a fetch
fault is the larger of `pc` and 4096. -/
theorem everyRunKeepsInvariant : Obligations.EveryRunKeepsInvariant := by
  refine ⟨fun g t s hs => perform_inv g t hs, fun g m f k ts hm => runTransactions_inv g ts (powerOn_inv g f k hm),
    fun s hs hp => ⟨max s.pc.toNat 4096, step_of_unfetchable (by omega), Nat.le_max_right _ _, ?_⟩⟩
  exact Nat.max_le.2 ⟨hs.pcReachable, by decide⟩

end Sys2Proof.Machine
end

section
/-! PROOFS. The host's ports and the values of the reset state (10_state.md R34, R44, R45, R47). -/

namespace Sys2Proof.Machine

/-- Where an entry of a table lies when the rows are laid out one after the other. -/
theorem getElem?_flatMap_toList {α : Type} {rows cols : Nat} (table : Vector (Vector α cols) rows) (r : Fin rows)
    (c : Fin cols) : (table.toList.flatMap Vector.toList)[r.val * cols + c.val]? = some table[r][c] := by
  have hflat : table.toList.flatMap Vector.toList = table.flatten.toList := by
    obtain ⟨⟨l⟩, hl⟩ := table
    change (l.map (Array.toList ∘ Vector.toArray)).flatten = _
    simp
  have hbound : r.val * cols + c.val < rows * cols := calc
    r.val * cols + c.val < (r.val + 1) * cols := by rw [Nat.add_one_mul]; exact Nat.add_lt_add_left c.isLt _
    _ ≤ rows * cols := Nat.mul_le_mul_right cols r.isLt
  have hdiv : (r.val * cols + c.val) / cols = r.val := by
    rw [Nat.mul_comm, Nat.mul_add_div c.pos, Nat.div_eq_of_lt c.isLt, Nat.add_zero]
  have hmod : (r.val * cols + c.val) % cols = c.val := by
    rw [Nat.mul_add_mod', Nat.mod_eq_of_lt c.isLt]
  rw [hflat, Vector.getElem?_toList, Vector.getElem?_flatten, dif_pos hbound]
  simp [hdiv, hmod]

/-! ## The ports -/

theorem length_framebufferPort (s : State) : (framebufferPort s).length = 2048 := by
  simp [framebufferPort, List.length_flatMap]

theorem getElem?_framebufferPort (s : State) (r : Row) (c : Col) :
    (framebufferPort s)[r.val * 64 + c.val]? = some (cellByte (s.fb.cell r c)) := by
  rw [framebufferPort, List.getElem?_map, getElem?_flatMap_toList]
  rfl

theorem toNat_cellByte (on : Bool) : (cellByte on).toNat = if on then 1 else 0 := by cases on <;> rfl

/-- Settles O51: `set_key` sets one entry of the latch, and the port lays the framebuffer out row after row. -/
theorem hostPorts : Obligations.HostPorts := by
  refine fun g s => ⟨fun k pressed => ⟨s.setKeyLatch k pressed, rfl, ?_, fun j hj => ?_, rfl⟩,
    length_framebufferPort s, fun r c => ?_, rfl⟩
  · simp
  · exact Vector.getElem_set_ne k.isLt j.isLt (fun h => hj (Fin.ext h.symm))
  · rw [getElem?_framebufferPort, Option.map_some, toNat_cellByte]

/-! ## The reset state -/

theorem GlyphTable.getElem?_bytes (g : GlyphTable) (d : Fin 16) (k : Fin 5) :
    (GlyphTable.bytes g)[5 * d.val + k.val]? = some g[d][k] := by
  rw [GlyphTable.bytes, Nat.mul_comm, getElem?_flatMap_toList]

/-- An address that memory does not list reads, below 80, as the default table's byte. -/
theorem Memory.read_nil_glyph (d : Fin 16) (k : Fin 5) :
    Memory.read [] (5 * d.val + k.val) = defaultGlyphTable[d][k] := by
  simp [Memory.read, Memory.lookup, Memory.unlisted, List.getD_eq_getElem?_getD, GlyphTable.getElem?_bytes]

/-- Writing what the addresses read as anyway lists nothing. -/
theorem Memory.writeBytes_nil (us : List Byte) : ∀ a : Nat,
    (∀ (k : Nat) (hk : k < us.length), us[k] = Memory.unlisted (a + k)) → Memory.writeBytes [] a us = [] := by
  induction us with
  | nil => exact fun _ _ => rfl
  | cons u us ih =>
    intro a h
    have hwrite : Memory.write [] a u = [] := if_pos (h 0 (Nat.zero_lt_succ _))
    rw [Memory.writeBytes, hwrite]
    refine ih (a + 1) fun k hk => ?_
    rw [Nat.add_assoc, Nat.add_comm 1 k]
    exact h (k + 1) (Nat.succ_lt_succ hk)

theorem hostReset_reset : hostReset defaultGlyphTable State.reset = State.reset := by
  have hmem : Memory.writeBytes [] 0 (GlyphTable.bytes defaultGlyphTable) = [] :=
    Memory.writeBytes_nil _ 0 fun k hk => by simp [Memory.unlisted, hk]
  simp [hostReset, State.reset, hmem]

/-- Settles O52: reset writes the default table, which is how unlisted addresses read. -/
theorem resetStateValues : Obligations.ResetStateValues := by
  refine ⟨fun j => ?_, rfl, rfl, fun j => ?_, rfl, rfl, rfl, Memory.read_nil_glyph, hostReset_reset⟩
  · simp [State.reset, State.readV]
  · simp [State.reset]

end Sys2Proof.Machine
end

section
/-! PROOFS. Memory as a whole: a canonical memory lists exactly the cells that read as another byte than an unlisted
address does, so what it reads determines it (20_memory.md R60, R73). -/

namespace Sys2Proof.Machine

/-! ## The canonical form in terms of its cells -/

/-- Cells in their order by address. -/
abbrev AddrLt (c d : Host.Cell) : Prop := c.1 < d.1

theorem Memory.rising_iff {l : Nat} {m : Memory} :
    Memory.rising l m = true ↔ (∀ c ∈ m, l ≤ c.1) ∧ m.Pairwise AddrLt := by
  induction m generalizing l with
  | nil => simp [Memory.rising]
  | cons c m ih =>
    obtain ⟨a, u⟩ := c
    simp only [Memory.rising, Bool.and_eq_true, decide_eq_true_eq, ih, List.forall_mem_cons, List.pairwise_cons]
    constructor
    · rintro ⟨hl, hm, hp⟩
      exact ⟨⟨hl, fun d hd => hl.trans (Nat.le_of_succ_le (hm d hd))⟩, hm, hp⟩
    · rintro ⟨⟨hl, -⟩, hm, hp⟩
      exact ⟨hl, hm, hp⟩

theorem Memory.wf_iff {m : Memory} :
    m.wf = true ↔ m.Pairwise AddrLt ∧ ∀ c ∈ m, c.1 < 4096 ∧ c.2 ≠ Memory.unlisted c.1 := by
  simp [Memory.wf, Memory.rising_iff]

theorem Memory.lookup_eq_some {m : Memory} (h : m.Pairwise AddrLt) {a : Nat} {u : Byte} :
    Memory.lookup a m = some u ↔ (a, u) ∈ m := by
  induction m with
  | nil => simp [Memory.lookup]
  | cons c m ih =>
    obtain ⟨b, t⟩ := c
    obtain ⟨hb, hm⟩ := List.pairwise_cons.1 h
    by_cases hab : a = b
    · subst hab
      have hnot : (a, u) ∉ m := fun hmem => Nat.lt_irrefl a (hb _ hmem)
      simp [Memory.lookup, hnot, eq_comm]
    · simp [Memory.lookup, hab, ih hm]

/-- A canonical memory lists a cell if and only if its address reads as that byte and would not do so unlisted. -/
theorem Memory.mem_iff_read {m : Memory} (h : m.wf = true) {a : Nat} {u : Byte} :
    (a, u) ∈ m ↔ m.read a = u ∧ u ≠ Memory.unlisted a := by
  obtain ⟨hsorted, hcells⟩ := Memory.wf_iff.1 h
  rw [← Memory.lookup_eq_some hsorted, Memory.read]
  cases hl : Memory.lookup a m with
  | none => simp +contextual [eq_comm]
  | some t =>
    have ht : t ≠ Memory.unlisted a := (hcells _ ((Memory.lookup_eq_some hsorted).1 hl)).2
    simp only [Option.some.injEq, Option.getD_some]
    exact ⟨fun htu => ⟨htu, htu ▸ ht⟩, And.left⟩

/-! ## Extensionality -/

theorem Memory.ext_read {m n : Memory} (hm : m.wf = true) (hn : n.wf = true) (h : ∀ a, m.read a = n.read a) :
    m = n := by
  have : Std.Antisymm AddrLt := ⟨fun _ _ h₁ h₂ => absurd h₂ (Nat.lt_asymm h₁)⟩
  have : Std.Irrefl AddrLt := ⟨fun c => Nat.lt_irrefl c.1⟩
  refine (Memory.wf_iff.1 hm).1.eq_of_mem_iff (Memory.wf_iff.1 hn).1 fun c => ?_
  rw [Memory.mem_iff_read hm, Memory.mem_iff_read hn, h]

theorem Memory.write_read {m : Memory} (h : m.wf = true) {a : Nat} (ha : a < 4096) : m.write a (m.read a) = m := by
  refine Memory.ext_read (Memory.wf_write h ha _) h fun b => ?_
  rw [Memory.read_write]
  split
  · next hb => rw [hb]
  · rfl

/-- Settles O56: a canonical memory is determined by what it reads, and writing what an address reads changes no
read. -/
theorem canonicalMemoriesAreExtensional : Obligations.CanonicalMemoriesAreExtensional :=
  ⟨fun _ _ => Memory.ext_read, fun _ _ hm ha => Memory.write_read hm ha⟩

end Sys2Proof.Machine
end

section
/-! PROOFS. A completed step in terms of the word it fetches, and code that a register-dump has just stored
(20_memory.md R78, 44_index_memory.md R206). -/

namespace Sys2Proof.Machine

/-! ## A step by its fetched word -/

theorem mapNext_eq_next {f : State → State} {r : Result} {t : State} :
    mapNext f r = .next t ↔ ∃ u, r = .next u ∧ f u = t := by
  cases r <;> simp [mapNext]

theorem Fetches.wordOfBytes_eq {s : State} {w : Word} (h : Fetches s w) :
    wordOfBytes (s.mem.read s.pc.toNat) (s.mem.read (s.pc.toNat + 1)) = w := by
  obtain ⟨-, hword⟩ := h
  apply BitVec.eq_of_toNat_eq
  rw [toNat_wordOfBytes, hword]

/-- The step runs the word that it fetches, and ticks if that completes. -/
theorem step_of_fetches {s : State} {w : Word} (h : Fetches s w) : step s = mapNext tick (exec (decode w) s) := by
  rw [step_of_fetchable h.1, h.wordOfBytes_eq]
  rfl

/-! ## The bytes that register-dump stores -/

theorem State.read_writeBytes_regBlock (s : State) (m : Memory) (a : Nat) {x j : RegIx} (hj : j.val ≤ x.val) :
    (m.writeBytes a (s.regBlock x)).read (a + j.val) = s.readV j := by
  have hlen := s.length_regBlock x
  rw [Memory.read_writeBytes, dif_pos (by omega), State.getElem_regBlock]
  simp

/-- Settles O15: a dump over the next instruction leaves `pc` at the dumped bytes of `V[0]` and `V[1]`, which the next step
therefore fetches. -/
theorem storedCodeRunsAtOnce : Obligations.StoredCodeRunsAtOnce := by
  rintro s t x w ⟨d, hd, hdump⟩ hx hbase hw hstep
  rw [step_of_fetches hd, hdump, mapNext_eq_next] at hstep
  obtain ⟨u, hexec, rfl⟩ := hstep
  obtain ⟨hrange, rfl⟩ := execRegisterDump_next hexec
  have hpc : (s.pc + 2).toNat = s.base := by
    have hfetch : s.pc.toNat ≤ 4094 := hd.1
    bv_omega
  have hv0 : (s.mem.writeBytes s.base (s.regBlock x)).read s.base = s.readV 0 :=
    s.read_writeBytes_regBlock s.mem s.base (j := 0) (Nat.zero_le x.val)
  have hv1 : (s.mem.writeBytes s.base (s.regBlock x)).read (s.base + 1) = s.readV 1 :=
    s.read_writeBytes_regBlock s.mem s.base (j := 1) hx
  have hnext : Fetches (tick (s.setMem (s.mem.writeBytes s.base (s.regBlock x))).advance) w := by
    simp only [Fetches, tick_pc, State.advance_pc, State.setMem_pc, tick_mem, State.advance_mem, State.setMem_mem,
      hpc, hv0, hv1]
    exact ⟨by omega, hw⟩
  refine ⟨hnext, fun u hu => ?_⟩
  rw [step_of_fetches hnext, hu, mapNext_next]

end Sys2Proof.Machine
end

section
/-! PROOFS. The encoding (30_encoding.md): the decoder and the encoder are inverse to each other on well-formed
instructions. The strictness of matching and the opcode map are read off the encoder through that. -/

namespace Sys2Proof

/-! ## Unassigned words (R97, R98) -/

/-- The unassigned words in the fields, family 8 by the sub-selectors that are listed instead of those that are not. -/
theorem isUnassigned_iff (w : Word) : isUnassigned w = true ↔
    ((fieldOp w).toNat = 0x5 ∧ (fieldN w).toNat ≠ 0) ∨
    ((fieldOp w).toNat = 0x9 ∧ (fieldN w).toNat ≠ 0) ∨
    ((fieldOp w).toNat = 0x8 ∧ (fieldN w).toNat ∉ [0x0, 0x1, 0x2, 0x3, 0x4, 0x5, 0x6, 0x7, 0xE]) ∨
    ((fieldOp w).toNat = 0xE ∧ (fieldKk w).toNat ∉ [0x9E, 0xA1]) ∨
    ((fieldOp w).toNat = 0xF ∧ (fieldKk w).toNat ∉ [0x07, 0x0A, 0x15, 0x18, 0x1E, 0x29, 0x33, 0x55, 0x65]) := by
  have hlisted : ∀ n < 16, n ∈ [0x8, 0x9, 0xA, 0xB, 0xC, 0xD, 0xF] ↔
      n ∉ [0x0, 0x1, 0x2, 0x3, 0x4, 0x5, 0x6, 0x7, 0xE] := by decide
  have hn := hlisted (w.toNat % 16) (Nat.mod_lt _ (by decide))
  simp only [toNat_fieldOp, toNat_fieldN, toNat_fieldKk]
  simp only [isUnassigned, Bool.or_eq_true, Bool.and_eq_true, Bool.not_eq_true', ← Bool.not_eq_true, beq_iff_eq,
    bne_iff_ne, List.contains_iff_mem, hn, or_assoc, or_left_comm]

theorem decodeFamily8_of_unlisted {w : Word}
    (hn : (fieldN w).toNat ∉ [0x0, 0x1, 0x2, 0x3, 0x4, 0x5, 0x6, 0x7, 0xE]) : decodeFamily8 w = .unassigned w := by
  unfold decodeFamily8
  split <;> simp_all

theorem decodeFamilyE_of_unlisted {w : Word} (hkk : (fieldKk w).toNat ∉ [0x9E, 0xA1]) :
    decodeFamilyE w = .unassigned w := by
  unfold decodeFamilyE
  split <;> simp_all

theorem decodeFamilyF_of_unlisted {w : Word}
    (hkk : (fieldKk w).toNat ∉ [0x07, 0x0A, 0x15, 0x18, 0x1E, 0x29, 0x33, 0x55, 0x65]) :
    decodeFamilyF w = .unassigned w := by
  unfold decodeFamilyF
  split <;> simp_all

theorem decode_of_isUnassigned {w : Word} (h : isUnassigned w = true) : decode w = .unassigned w := by
  rcases (isUnassigned_iff w).1 h with ⟨hop, hn⟩ | ⟨hop, hn⟩ | ⟨hop, hn⟩ | ⟨hop, hkk⟩ | ⟨hop, hkk⟩
  · simp only [decode, hop]
    exact if_neg fun h0 => hn (congrArg BitVec.toNat h0)
  · simp only [decode, hop]
    exact if_neg fun h0 => hn (congrArg BitVec.toNat h0)
  · simp only [decode, hop, decodeFamily8_of_unlisted hn]
  · simp only [decode, hop, decodeFamilyE_of_unlisted hkk]
  · simp only [decode, hop, decodeFamilyF_of_unlisted hkk]

/-! ## Decoding an encoded instruction -/

theorem decodeFamily0_of_ne {w : Word} (hcls : w ≠ 0x00E0#16) (hret : w ≠ 0x00EE#16) :
    decodeFamily0 w = .systemCall (fieldAddr w) := by
  rw [decodeFamily0, if_neg hcls, if_neg hret]

theorem formatA_ne {op : BitVec 4} {addr : BitVec 12} {w : Word} (h : addr ≠ fieldAddr w) : formatA op addr ≠ w := by
  rintro rfl
  exact h (fieldAddr_formatA _ _).symm

/-- The decoder finds the family by `op`, then the row by its sub-selector, then the operands in the row's format. -/
theorem decode_encode {i : Instr} (h : i.wellFormed = true) : decode (encode i) = i := by
  cases i with
  | clearDisplay | ret => rfl
  | systemCall addr =>
    simp only [Instr.wellFormed, Bool.and_eq_true, bne_iff_ne] at h
    obtain ⟨hcls, hret⟩ := h
    have hsys := decodeFamily0_of_ne (formatA_ne (op := 0x0) hcls) (formatA_ne hret)
    simpa [encode, decode] using hsys
  | unassigned w => exact decode_of_isUnassigned h
  | jump | call | loadIndex | jumpWithOffset => simp [encode, decode]
  | skipIfEqualImmediate | skipIfNotEqualImmediate | loadImmediate | addImmediate | randomAnd => simp [encode, decode]
  | skipIfRegistersEqual | skipIfRegistersNotEqual | draw => simp [encode, decode]
  | registerMove | registerOr | registerAnd | registerXor | registerAdd | registerSubtract | shiftRight
  | registerSubtractReverse | shiftLeft => simp [encode, decode, decodeFamily8]
  | skipIfKeyPressed | skipIfKeyNotPressed => simp [encode, decode, decodeFamilyE]
  | readDelayTimer | waitForKey | setDelayTimer | setSoundTimer | addToIndex | loadGlyphAddress | storeBcd
  | registerDump | registerLoad => simp [encode, decode, decodeFamilyF]

/-- Settles O1: the word by `decode_encode`, and the byte decoder puts the word together again from its two bytes. -/
theorem decodeOfEncode : Obligations.DecodeOfEncode := by
  intro i h
  refine ⟨decode_encode h, fun rest => ?_⟩
  simp [encodeBytes, decode_encode h]

/-! ## Encoding a decoded word -/

/-- The instruction is well-formed and has this word. -/
def Instr.StandsFor (i : Instr) (w : Word) : Prop := encode i = w ∧ i.wellFormed = true

section Rebuild

variable {w : Word} {op : BitVec 4} (hop : (fieldOp w).toNat = op.toNat)
include hop

theorem formatA_of_op : formatA op (fieldAddr w) = w := by
  rw [← BitVec.eq_of_toNat_eq hop, formatA_fields]

theorem formatXK_of_op : formatXK op (fieldX w) (fieldKk w) = w := by
  rw [← BitVec.eq_of_toNat_eq hop, formatXK_fields]

theorem formatXK_of_op_kk {kk : Byte} (hkk : (fieldKk w).toNat = kk.toNat) : formatXK op (fieldX w) kk = w := by
  rw [← BitVec.eq_of_toNat_eq hkk, formatXK_of_op hop]

theorem formatXYN_of_op_n {n : BitVec 4} (hn : (fieldN w).toNat = n.toNat) :
    formatXYN op (fieldX w) (fieldY w) n = w := by
  rw [← BitVec.eq_of_toNat_eq hop, ← BitVec.eq_of_toNat_eq hn, formatXYN_fields]

end Rebuild

section Families

variable {w : Word}

theorem standsFor_unassigned (h : isUnassigned w = true) : (Instr.unassigned w).StandsFor w := ⟨rfl, h⟩

theorem decodeFamily0_standsFor (hop : (fieldOp w).toNat = 0x0) : (decodeFamily0 w).StandsFor w := by
  have hw : formatA 0x0 (fieldAddr w) = w := formatA_of_op hop
  unfold decodeFamily0
  split
  · next hcls => exact ⟨hcls.symm, rfl⟩
  · split
    · next hret => exact ⟨hret.symm, rfl⟩
    · next hcls hret =>
      refine ⟨hw, ?_⟩
      simp only [Instr.wellFormed, Bool.and_eq_true, bne_iff_ne]
      exact ⟨fun h => hcls (by rw [← hw, h]; rfl), fun h => hret (by rw [← hw, h]; rfl)⟩

theorem decodeFamily8_standsFor (hop : (fieldOp w).toNat = 0x8) : (decodeFamily8 w).StandsFor w := by
  unfold decodeFamily8
  split
  case h_10 => exact standsFor_unassigned ((isUnassigned_iff w).2 (by simp_all))
  all_goals exact ⟨formatXYN_of_op_n hop ‹_›, rfl⟩

theorem decodeFamilyE_standsFor (hop : (fieldOp w).toNat = 0xE) : (decodeFamilyE w).StandsFor w := by
  unfold decodeFamilyE
  split
  case h_3 => exact standsFor_unassigned ((isUnassigned_iff w).2 (by simp_all))
  all_goals exact ⟨formatXK_of_op_kk hop ‹_›, rfl⟩

theorem decodeFamilyF_standsFor (hop : (fieldOp w).toNat = 0xF) : (decodeFamilyF w).StandsFor w := by
  unfold decodeFamilyF
  split
  case h_10 => exact standsFor_unassigned ((isUnassigned_iff w).2 (by simp_all))
  all_goals exact ⟨formatXK_of_op_kk hop ‹_›, rfl⟩

/-- Families 5 and 9, which have one row each, with `n` = 0. -/
theorem ite_standsFor {i : Instr} (hi : fieldN w = 0#4 → i.StandsFor w)
    (hop : (fieldOp w).toNat = 0x5 ∨ (fieldOp w).toNat = 0x9) :
    (if fieldN w = 0#4 then i else .unassigned w).StandsFor w := by
  split
  · next hn => exact hi hn
  · next hn =>
    have hn' : (fieldN w).toNat ≠ 0 := fun h => hn (BitVec.eq_of_toNat_eq h)
    exact standsFor_unassigned ((isUnassigned_iff w).2 (hop.imp (⟨·, hn'⟩) fun h => .inl ⟨h, hn'⟩))

end Families

theorem decode_standsFor (w : Word) : (decode w).StandsFor w := by
  unfold decode
  split
  case h_1 hop => exact decodeFamily0_standsFor hop
  case h_9 hop => exact decodeFamily8_standsFor hop
  case h_15 hop => exact decodeFamilyE_standsFor hop
  case h_16 hop => exact decodeFamilyF_standsFor hop
  case h_6 hop => exact ite_standsFor (fun hn => ⟨formatXYN_of_op_n hop (congrArg _ hn), rfl⟩) (.inl hop)
  case h_10 hop => exact ite_standsFor (fun hn => ⟨formatXYN_of_op_n hop (congrArg _ hn), rfl⟩) (.inr hop)
  case h_14 hop => exact ⟨formatXYN_of_op_n hop rfl, rfl⟩
  case h_2 hop | h_3 hop | h_11 hop | h_12 hop => exact ⟨formatA_of_op hop, rfl⟩
  case h_4 hop | h_5 hop | h_7 hop | h_8 hop | h_13 hop => exact ⟨formatXK_of_op hop, rfl⟩
  case h_17 =>
    have hlt : (fieldOp w).toNat < 16 := (fieldOp w).isLt
    simp only [imp_false] at *
    omega

/-- A word decodes to exactly one instruction, the well-formed one that encodes to it. -/
theorem decode_eq_iff {w : Word} {i : Instr} : decode w = i ↔ i.StandsFor w := by
  constructor
  · rintro rfl
    exact decode_standsFor w
  · rintro ⟨rfl, hwf⟩
    exact decode_encode hwf

theorem decode_eq_unassigned_iff {w : Word} : decode w = .unassigned w ↔ isUnassigned w = true :=
  decode_eq_iff.trans (and_iff_right rfl)

/-! ## Strict matching (R97) -/

theorem decode_eq_iff_toNat {w : Word} {i : Instr} (h : i.wellFormed = true) :
    decode w = i ↔ w.toNat = (encode i).toNat := by
  rw [decode_eq_iff, Instr.StandsFor, and_iff_left h, BitVec.toNat_inj, eq_comm]

theorem fieldAddr_eq_ofNat (w : Word) : fieldAddr w = BitVec.ofNat 12 w.toNat := rfl

/-- Settles O4: clear-display, return and the unassigned words by `decode_eq_iff`, system-call from family 0. -/
theorem matchingIsStrict : Obligations.MatchingIsStrict := by
  intro w
  refine ⟨decode_eq_iff_toNat rfl, decode_eq_iff_toNat rfl, fun hop hcls hret => ?_, ?_⟩
  · have hfamily : decode w = decodeFamily0 w := by simp [decode, toNat_fieldOp, hop]
    rw [hfamily, decodeFamily0_of_ne (ne_of_apply_ne _ hcls) (ne_of_apply_ne _ hret), fieldAddr_eq_ofNat]
  · rw [decode_eq_unassigned_iff, isUnassigned_iff]
    simp only [toNat_fieldOp, toNat_fieldN, toNat_fieldKk]

/-! ## The opcode map (R96)

A mask of the map leaves the fields of one format, so that a row fits a word when `op` and the sub-selector agree. -/

theorem and_maskOp (w : Word) : w &&& 0xF000#16 = formatA (fieldOp w) 0#12 := by
  have hmask : 0xF000#16 = BitVec.allOnes 4 ++ 0#12 := rfl
  conv_lhs => rw [← formatA_fields w, hmask, formatA, BitVec.and_append, BitVec.and_allOnes, BitVec.and_zero]
  rfl

theorem and_maskOpN (w : Word) : w &&& 0xF00F#16 = formatXYN (fieldOp w) 0 0 (fieldN w) := by
  have hmask : 0xF00F#16 = ((BitVec.allOnes 4 ++ 0#4) ++ 0#4) ++ BitVec.allOnes 4 := rfl
  conv_lhs => rw [← formatXYN_fields w, hmask, formatXYN, BitVec.and_append, BitVec.and_append, BitVec.and_append]
  simp only [BitVec.and_allOnes, BitVec.and_zero]
  rfl

theorem and_maskOpKk (w : Word) : w &&& 0xF0FF#16 = formatXK (fieldOp w) 0 (fieldKk w) := by
  have hmask : 0xF0FF#16 = (BitVec.allOnes 4 ++ 0#4) ++ BitVec.allOnes 8 := rfl
  conv_lhs => rw [← formatXK_fields w, hmask, formatXK, BitVec.and_append, BitVec.and_append]
  simp only [BitVec.and_allOnes, BitVec.and_zero]
  rfl

/-- The word selects the row, as `opcodeRowOf` tests it. -/
def OpcodeRow.fits (w : Word) (r : OpcodeRow) : Bool := (w &&& r.mask) == r.pattern

section Fits

variable (w : Word) (m : String) (p : Word)

theorem fits_mk (mask : Word) : OpcodeRow.fits w ⟨m, p, mask⟩ = decide (w &&& mask = p) := Bool.beq_eq_decide_eq _ _

@[simp] theorem fits_maskOp : OpcodeRow.fits w ⟨m, p, 0xF000#16⟩ =
    decide ((fieldOp w).toNat = p.toNat / 4096 ∧ p.toNat % 4096 = 0) := by
  rw [fits_mk, decide_eq_decide, and_maskOp, ← BitVec.toNat_inj, toNat_formatA, BitVec.toNat_ofNat]
  omega

@[simp] theorem fits_maskOpN : OpcodeRow.fits w ⟨m, p, 0xF00F#16⟩ =
    decide ((fieldOp w).toNat = p.toNat / 4096 ∧ (fieldN w).toNat = p.toNat % 4096) := by
  have hn := (fieldN w).isLt
  rw [fits_mk, decide_eq_decide, and_maskOpN, ← BitVec.toNat_inj, toNat_formatXYN, Fin.val_zero]
  omega

@[simp] theorem fits_maskOpKk : OpcodeRow.fits w ⟨m, p, 0xF0FF#16⟩ =
    decide ((fieldOp w).toNat = p.toNat / 4096 ∧ (fieldKk w).toNat = p.toNat % 4096) := by
  have hkk := (fieldKk w).isLt
  rw [fits_mk, decide_eq_decide, and_maskOpKk, ← BitVec.toNat_inj, toNat_formatXK, Fin.val_zero]
  omega

@[simp] theorem fits_maskAll : OpcodeRow.fits w ⟨m, p, 0xFFFF#16⟩ =
    decide ((fieldOp w).toNat = p.toNat / 4096 ∧ (fieldAddr w).toNat = p.toNat % 4096) := by
  have hmask : 0xFFFF#16 = BitVec.allOnes 16 := rfl
  rw [fits_mk, decide_eq_decide, hmask, BitVec.and_allOnes, ← BitVec.toNat_inj, toNat_fieldOp, toNat_fieldAddr]
  omega

@[simp] theorem fits_maskNone : OpcodeRow.fits w ⟨m, 0#16, 0#16⟩ = true := by
  simp [OpcodeRow.fits]

end Fits

section Rows

variable {w : Word}

theorem opcodeRowOf_eq (w : Word) : opcodeRowOf w = ((opcodeRows1.find? (OpcodeRow.fits w)).or
    (opcodeRows2.find? (OpcodeRow.fits w))).or (opcodeRows3.find? (OpcodeRow.fits w)) := by
  rw [opcodeRowOf, opcodeTable, List.find?_append, List.find?_append]
  rfl

theorem find?_opcodeRows1_of_op (hop : 8 ≤ (fieldOp w).toNat) : opcodeRows1.find? (OpcodeRow.fits w) = none := by
  have hne : ∀ k < 8, (fieldOp w).toNat ≠ k := by omega
  simp [opcodeRows1, hne]

theorem find?_opcodeRows2_of_op (hop : 14 ≤ (fieldOp w).toNat) : opcodeRows2.find? (OpcodeRow.fits w) = none := by
  have hne : ∀ k < 14, (fieldOp w).toNat ≠ k := by omega
  simp [opcodeRows2, hne]

theorem mnemonic_opcodeRowOf_systemCall (hop : (fieldOp w).toNat = 0) (hcls : (fieldAddr w).toNat ≠ 0x0E0)
    (hret : (fieldAddr w).toNat ≠ 0x0EE) : (opcodeRowOf w).map OpcodeRow.mnemonic = some "system-call" := by
  simp [opcodeRowOf_eq, opcodeRows1, hop, hcls, hret]

theorem mnemonic_opcodeRowOf_unassigned (h : isUnassigned w = true) :
    (opcodeRowOf w).map OpcodeRow.mnemonic = some "unassigned" := by
  rcases (isUnassigned_iff w).1 h with ⟨hop, hn⟩ | ⟨hop, hn⟩ | ⟨hop, hn⟩ | ⟨hop, hkk⟩ | ⟨hop, hkk⟩
  · simp [opcodeRowOf_eq, opcodeRows1, opcodeRows2, opcodeRows3, hop, hn]
  · simp [opcodeRowOf_eq, find?_opcodeRows1_of_op, opcodeRows2, opcodeRows3, hop, hn]
  · simp_all [opcodeRowOf_eq, find?_opcodeRows1_of_op, opcodeRows2, opcodeRows3]
  · simp_all [opcodeRowOf_eq, find?_opcodeRows1_of_op, find?_opcodeRows2_of_op, opcodeRows3]
  · simp_all [opcodeRowOf_eq, find?_opcodeRows1_of_op, find?_opcodeRows2_of_op, opcodeRows3]

end Rows

/-- The rows before that of an instruction differ from its word in `op` or in a sub-selector. -/
theorem mnemonic_opcodeRowOf_encode {i : Instr} (h : i.wellFormed = true) :
    (opcodeRowOf (encode i)).map OpcodeRow.mnemonic = some i.mnemonic := by
  cases i with
  | clearDisplay | ret => decide
  | systemCall addr =>
    simp only [Instr.wellFormed, Bool.and_eq_true, bne_iff_ne, ne_eq, ← BitVec.toNat_inj] at h
    obtain ⟨hcls, hret⟩ := h
    apply mnemonic_opcodeRowOf_systemCall
    · simp [encode]
    · simpa [encode] using hcls
    · simpa [encode] using hret
  | unassigned w => exact mnemonic_opcodeRowOf_unassigned h
  | jump | call | skipIfEqualImmediate | skipIfNotEqualImmediate | skipIfRegistersEqual | loadImmediate
  | addImmediate => simp [encode, Instr.mnemonic, opcodeRowOf_eq, opcodeRows1]
  | registerMove | registerOr | registerAnd | registerXor | registerAdd | registerSubtract | shiftRight
  | registerSubtractReverse | shiftLeft | skipIfRegistersNotEqual | loadIndex | jumpWithOffset | randomAnd | draw =>
    simp [encode, Instr.mnemonic, opcodeRowOf_eq, find?_opcodeRows1_of_op, opcodeRows2]
  | skipIfKeyPressed | skipIfKeyNotPressed | readDelayTimer | waitForKey | setDelayTimer | setSoundTimer | addToIndex
  | loadGlyphAddress | storeBcd | registerDump | registerLoad =>
    simp [encode, Instr.mnemonic, opcodeRowOf_eq, find?_opcodeRows1_of_op, find?_opcodeRows2_of_op, opcodeRows3]

/-- Settles O3: every word encodes the instruction it decodes to, so its row is that of an encoded instruction. -/
theorem decoderFollowsOpcodeMap : Obligations.DecoderFollowsOpcodeMap := by
  intro w
  obtain ⟨hw, hwf⟩ := decode_standsFor w
  have hrow := mnemonic_opcodeRowOf_encode hwf
  rwa [hw] at hrow

/-! ## The words of R104 -/

/-- Settles O5: the number of each format is the sum of its fields at their places. -/
theorem instructionWords : Obligations.InstructionWords := by
  refine ⟨rfl, rfl, ?_, ?_, ?_, ?_, ?_⟩
  · intro addr _ _
    simp [encode, toNat_formatA]
  · intro addr
    simp [encode, toNat_formatA]
  · intro x kk
    simp [encode, toNat_formatXK]
  · intro x y
    simp +arith [encode, toNat_formatXYN]
  · intro x
    simp +arith [encode, toNat_formatXYN, toNat_formatXK]

/-- Settles O6: the decoder evaluates each word. -/
theorem sampleWordsDecode : Obligations.SampleWordsDecode := ⟨rfl, rfl, rfl, rfl, rfl, rfl, rfl, rfl, rfl, rfl⟩

end Sys2Proof
end

section
/-! PROOFS. No instruction is refused, and a fault has one of the listed causes (60_exceptions.md R240, R249). -/

namespace Sys2Proof.Machine

/-! ## No refusal -/

theorem guardRange_ne_refused (base count : Nat) (t : State) (r : Refusal) : guardRange base count t ≠ .refused r := by
  rw [guardRange_eq]
  split <;> simp

/-- Every constructor has an arm in `exec`, and none answers a refusal. -/
theorem exec_ne_refused (i : Instr) (s : State) (r : Refusal) : exec i s ≠ .refused r := by
  intro h
  cases i with
  | ret =>
    simp only [exec, execRet] at h
    split at h <;> cases h
  | call addr =>
    simp only [exec, execCall] at h
    split at h <;> cases h
  | skipIfKeyPressed x =>
    simp only [exec, execSkipIfKeyPressed] at h
    split at h <;> cases h
  | skipIfKeyNotPressed x =>
    simp only [exec, execSkipIfKeyNotPressed] at h
    split at h <;> cases h
  | waitForKey x =>
    simp only [exec, execWaitForKey] at h
    split at h <;> cases h
  | draw | storeBcd | registerDump | registerLoad => exact guardRange_ne_refused _ _ _ _ h
  | clearDisplay | systemCall | unassigned | jump | jumpWithOffset | skipIfEqualImmediate | skipIfNotEqualImmediate
  | skipIfRegistersEqual | skipIfRegistersNotEqual | loadImmediate | addImmediate | registerMove | registerOr
  | registerAnd | registerXor | registerAdd | registerSubtract | registerSubtractReverse | shiftRight | shiftLeft
  | loadIndex | addToIndex | loadGlyphAddress | randomAnd | readDelayTimer | setDelayTimer | setSoundTimer => cases h

/-! ## Faults of an instruction -/

section Faults

variable {s : State} {f : Fault}

theorem execRet_fault (h : exec .ret s = .fault f) : s.sp.val = 0 ∧ f = .stackUnderflow s.pc := by
  simp only [exec, execRet] at h
  split at h
  · cases h
  · next hpop =>
    cases h
    exact ⟨State.pop?_eq_none.1 hpop, rfl⟩

theorem execCall_fault {addr : BitVec 12} (h : exec (.call addr) s = .fault f) :
    s.sp.val = 16 ∧ f = .stackOverflow s.pc := by
  simp only [exec, execCall] at h
  split at h
  · cases h
  · next hpush =>
    cases h
    exact ⟨State.push?_eq_none.1 hpush, rfl⟩

theorem execSkipIfKeyPressed_fault {x : RegIx} (h : exec (.skipIfKeyPressed x) s = .fault f) :
    15 < (s.readV x).toNat ∧ f = .keyIndexOutOfRange (s.readV x) := by
  simp only [exec, execSkipIfKeyPressed] at h
  split at h
  · cases h
  · next hkey =>
    cases h
    exact ⟨keyOfByte_eq_none.1 hkey, rfl⟩

theorem execSkipIfKeyNotPressed_fault {x : RegIx} (h : exec (.skipIfKeyNotPressed x) s = .fault f) :
    15 < (s.readV x).toNat ∧ f = .keyIndexOutOfRange (s.readV x) := by
  simp only [exec, execSkipIfKeyNotPressed] at h
  split at h
  · cases h
  · next hkey =>
    cases h
    exact ⟨keyOfByte_eq_none.1 hkey, rfl⟩

/-- Every fault of a fetched instruction is a row of R240. -/
theorem faultCause_of_exec {i : Instr} (hi : FetchesInstr s i) (h : exec i s = .fault f) :
    FaultCause s f := by
  cases i with
  | ret =>
    obtain ⟨hsp, rfl⟩ := execRet_fault h
    exact .ret hi hsp
  | call addr =>
    obtain ⟨hsp, rfl⟩ := execCall_fault h
    exact .call hi hsp
  | skipIfKeyPressed x =>
    obtain ⟨hkey, rfl⟩ := execSkipIfKeyPressed_fault h
    exact .keyPressed hi hkey
  | skipIfKeyNotPressed x =>
    obtain ⟨hkey, rfl⟩ := execSkipIfKeyNotPressed_fault h
    exact .keyNotPressed hi hkey
  | draw x y n =>
    obtain ⟨hn, hrange, rfl⟩ := guardRange_fault h
    exact .draw hi (Nat.pos_of_ne_zero hn) (by simp only [State.base] at hrange; omega)
  | storeBcd x =>
    obtain ⟨-, hrange, rfl⟩ := guardRange_fault h
    exact .storeBcd hi (Nat.lt_of_succ_lt_succ hrange)
  | registerDump x =>
    obtain ⟨-, hrange, rfl⟩ := guardRange_fault h
    exact .registerDump hi (Nat.lt_of_succ_lt_succ hrange)
  | registerLoad x =>
    obtain ⟨-, hrange, rfl⟩ := guardRange_fault h
    exact .registerLoad hi (Nat.lt_of_succ_lt_succ hrange)
  | waitForKey x =>
    simp only [exec, execWaitForKey] at h
    split at h <;> cases h
  | clearDisplay | systemCall | unassigned | jump | jumpWithOffset | skipIfEqualImmediate | skipIfNotEqualImmediate
  | skipIfRegistersEqual | skipIfRegistersNotEqual | loadImmediate | addImmediate | registerMove | registerOr
  | registerAnd | registerXor | registerAdd | registerSubtract | registerSubtractReverse | shiftRight | shiftLeft
  | loadIndex | addToIndex | loadGlyphAddress | randomAnd | readDelayTimer | setDelayTimer | setSoundTimer => cases h

end Faults

/-! ## Steps -/

theorem exists_fetches {s : State} (hp : s.pc.toNat ≤ 4094) : ∃ w, Fetches s w :=
  ⟨wordOfBytes (s.mem.read s.pc.toNat) (s.mem.read (s.pc.toNat + 1)), hp, toNat_wordOfBytes _ _⟩

theorem mapNext_eq_fault {g : State → State} {r : Result} {f : Fault} : mapNext g r = .fault f ↔ r = .fault f := by
  cases r <;> simp [mapNext]

theorem mapNext_eq_refused {g : State → State} {r : Result} {e : Refusal} :
    mapNext g r = .refused e ↔ r = .refused e := by
  cases r <;> simp [mapNext]

theorem step_ne_refused (s : State) (r : Refusal) : step s ≠ .refused r := by
  intro h
  by_cases hp : s.pc.toNat ≤ 4094
  · obtain ⟨w, hw⟩ := exists_fetches hp
    rw [step_of_fetches hw, mapNext_eq_refused] at h
    exact exec_ne_refused _ _ _ h
  · rw [step_of_unfetchable (Nat.lt_of_not_le hp)] at h
    cases h

/-- A fault of the fetch, or of the fetched instruction. -/
theorem faultCause_of_step {s : State} {f : Fault} (h : step s = .fault f) : FaultCause s f := by
  by_cases hp : s.pc.toNat ≤ 4094
  · obtain ⟨w, hw⟩ := exists_fetches hp
    rw [step_of_fetches hw, mapNext_eq_fault] at h
    exact faultCause_of_exec ⟨w, hw, rfl⟩ h
  · have hinfo : max s.pc.toNat 4096 = if s.pc.toNat > 4095 then s.pc.toNat else s.pc.toNat + 1 := by
      split <;> omega
    rw [step_of_unfetchable (Nat.lt_of_not_le hp), hinfo] at h
    cases h
    exact .fetch (by omega)

/-- Settles O12: a step that does not complete faults for a listed cause, since no instruction is refused. -/
theorem everyFetchedWordExecutes : Obligations.EveryFetchedWordExecutes := by
  refine fun s => ⟨step_ne_refused s, fun hnone => ?_⟩
  cases h : step s with
  | next t => exact ⟨t, rfl⟩
  | fault f => exact absurd (faultCause_of_step h) (hnone f)
  | refused r => exact absurd h (step_ne_refused s r)

end Sys2Proof.Machine
end

section
/-! PROOFS. The step cycle (40_step_cycle.md): what a step runs and what its tick starts from, the new `pc` of every
instruction, and the no-operation class. -/

namespace Sys2Proof.Machine

variable {s t : State}

/-! ## Decoding is total (R122) -/

/-- Settles O2: `decode_standsFor` is both halves. -/
theorem encodeOfDecode : Obligations.EncodeOfDecode := decode_standsFor

/-! ## One step (R120, R127) -/

/-- Settles O7: the fetch fault by the bound on `pc`, the rest since a step maps the tick over the outcome of the word it
fetches. -/
theorem stepRunsTheFetchedInstruction : Obligations.StepRunsTheFetchedInstruction := by
  refine fun s => ⟨fun hp => ?_, fun w hw => ?_⟩
  · have hinfo : max s.pc.toNat 4096 = if s.pc.toNat > 4095 then s.pc.toNat else s.pc.toNat + 1 := by
      split <;> omega
    rw [step_of_unfetchable (Nat.succ_lt_succ_iff.1 hp), hinfo]
  · rw [step_of_fetches hw]
    exact ⟨fun t ht => mapNext_eq_next.2 ⟨t, ht, rfl⟩, fun f => mapNext_eq_fault.2, fun r => mapNext_eq_refused.2⟩

/-- Settles O13: the host's transaction keeps the state it was given where the step faults. -/
theorem faultingStepChangesNothing : Obligations.FaultingStepChangesNothing := by
  intro g s f h
  simp only [perform, h]

/-! ## The tick (R126) -/

theorem exec_dt {i : Instr} (h : exec i s = .next t) (hset : ∀ x, i ≠ .setDelayTimer x) : t.dt = s.dt := by
  by_cases hu : .delay ∈ partsUsed i
  · rcases delay_mem_partsUsed.1 hu with ⟨x, rfl⟩ | ⟨x, rfl⟩
    · cases h
      rfl
    · exact absurd rfl (hset x)
  · exact (congrArg State.dt (exec_keepsPart hu h)).trans rfl

theorem exec_st {i : Instr} (h : exec i s = .next t) (hset : ∀ x, i ≠ .setSoundTimer x) : t.st = s.st := by
  have hu : .sound ∉ partsUsed i := by simp [sound_mem_partsUsed, hset]
  exact (congrArg State.st (exec_keepsPart hu h)).trans rfl

/-- Settles O8: the step ticks the state that the fetched instruction left, which has the old timers unless it set
one. -/
theorem everyCompletedStepTicks : Obligations.EveryCompletedStepTicks := by
  intro s u w hw hstep
  rw [step_of_fetches hw, mapNext_eq_next] at hstep
  obtain ⟨t, ht, rfl⟩ := hstep
  have hdt : (tick t).dt.toNat = t.dt.toNat - 1 := toNat_decay t.dt
  have hst : (tick t).st.toNat = t.st.toNat - 1 := toNat_decay t.st
  refine ⟨⟨t, ht, hdt, hst⟩, fun hset => ?_, fun hset => ?_⟩
  · rw [hdt, exec_dt ht hset]
  · rw [hst, exec_st ht hset]

/-! ## The new program counter (R125, R153) -/

theorem State.skipIf_pc_of_iff {c : Bool} {P : Prop} [Decidable P] (h : c = true ↔ P) :
    (s.skipIf c).pc = s.pc + if P then 4 else 2 := by
  simp only [State.skipIf_pc, h, apply_ite (s.pc + ·)]

theorem State.skipIf_pc_of_iff_not {c : Bool} {P : Prop} [Decidable P] (h : c = true ↔ ¬P) :
    (s.skipIf c).pc = s.pc + if P then 2 else 4 := by
  rw [State.skipIf_pc_of_iff h, ite_not]

/-- Settles O9, class by class: the inversion lemma of the instruction gives the next state, and with it its `pc`. -/
theorem newProgramCounter : Obligations.NewProgramCounter := by
  intro i s t h
  cases i with
  | skipIfEqualImmediate x kk | skipIfRegistersEqual x y =>
    cases h
    exact State.skipIf_pc_of_iff beq_iff_eq
  | skipIfNotEqualImmediate x kk | skipIfRegistersNotEqual x y =>
    cases h
    exact State.skipIf_pc_of_iff_not bne_iff_ne
  | skipIfKeyPressed x =>
    intro k hk
    obtain ⟨k', hk', rfl⟩ := execSkipIfKeyPressed_next h
    obtain rfl : k' = k := Fin.ext (hk'.symm.trans hk)
    exact State.skipIf_pc_of_iff Iff.rfl
  | skipIfKeyNotPressed x =>
    intro k hk
    obtain ⟨k', hk', rfl⟩ := execSkipIfKeyNotPressed_next h
    obtain rfl : k' = k := Fin.ext (hk'.symm.trans hk)
    exact State.skipIf_pc_of_iff_not (by simp)
  | jump addr =>
    cases h
    exact toNat_zextAddr addr
  | call addr =>
    obtain ⟨-, rfl⟩ := execCall_next h
    exact toNat_zextAddr addr
  | jumpWithOffset addr =>
    cases h
    have haddr := addr.isLt
    have hv := (s.readV 0).isLt
    simp only [State.setPc_pc, BitVec.toNat_add, toNat_zextAddr, toNat_zextByte]
    exact Nat.mod_eq_of_lt (by omega)
  | ret =>
    intro j hj
    obtain ⟨-, rfl⟩ := execRet_next h
    simp only [← hj, Nat.add_sub_cancel, Fin.getElem_fin]
  | waitForKey x =>
    rcases execWaitForKey_next h with ⟨k, hk, -, rfl⟩ | ⟨hnone, rfl⟩
    · have hsome : ¬∀ k : KeyIx, s.keys[k] = false := fun hnone => by simp [hnone k] at hk
      exact (if_neg hsome).symm
    · exact (if_pos hnone).symm
  | draw | storeBcd | registerDump | registerLoad =>
    obtain ⟨-, rfl⟩ := guardRange_next h
    rfl
  | clearDisplay | systemCall | unassigned | loadImmediate | addImmediate | registerMove | registerOr | registerAnd
  | registerXor | registerAdd | registerSubtract | registerSubtractReverse | shiftRight | shiftLeft | loadIndex
  | addToIndex | loadGlyphAddress | randomAnd | readDelayTimer | setDelayTimer | setSoundTimer =>
    cases h
    rfl

/-! ## The no-operation class (R131, R132) -/

theorem exec_noOperation {i : Instr} (s : State) (h : (∃ addr, i = .systemCall addr) ∨ ∃ w, i = .unassigned w) :
    exec i s = .next s.advance := by
  rcases h with ⟨addr, rfl⟩ | ⟨w, rfl⟩ <;> rfl

theorem State.onlyRegisters_advance (s : State) : OnlyRegisters [] s s.advance :=
  ⟨fun _ _ => rfl, rfl, ⟨rfl, rfl⟩, ⟨rfl, rfl⟩, fun _ => rfl, rfl, rfl, rfl⟩

/-- Settles O24: both only advance, and the tick after them changes the timers alone. -/
theorem noOperationsOnlyAdvance : Obligations.NoOperationsOnlyAdvance := by
  intro s i hi
  have hexec := exec_noOperation s hi
  obtain ⟨hregs, hindex, hstack, -, hmem, hfb, hinputs⟩ := s.onlyRegisters_advance
  refine ⟨⟨s.advance, hexec, s.advance_pc, s.onlyRegisters_advance⟩, ?_⟩
  rintro ⟨w, hw, rfl⟩
  refine ⟨tick s.advance, ?_, rfl, toNat_decay s.dt, toNat_decay s.st, hregs, hindex, hstack, hmem, hfb, hinputs⟩
  rw [step_of_fetches hw, hexec, mapNext_next]

end Sys2Proof.Machine
end

section
/-! PROOFS. The display (41_display.md): what clear-display and draw leave in the framebuffer, and draw as the exclusive or
with the sprite mask (R142 to R146). -/

namespace Sys2Proof.Machine

variable {s t : State} {x y : RegIx} {n : BitVec 4}

/-! ## Words by their number, and steps by their instruction -/

theorem decode_ofNat {i : Instr} (h : i.wellFormed = true) {k : Nat} (hk : (encode i).toNat = k) :
    decode (BitVec.ofNat 16 k) = i := by
  rw [← hk, BitVec.ofNat_toNat, BitVec.setWidth_eq, decode_encode h]

theorem step_of_fetchesInstr {i : Instr} (h : FetchesInstr s i) (ht : exec i s = .next t) : step s = .next (tick t) := by
  obtain ⟨w, hw, rfl⟩ := h
  rw [step_of_fetches hw, ht, mapNext_next]

/-! ## Clear-display (R140) -/

/-- Settles O25: the blank framebuffer is off at every cell, and `setFb` and the advance touch nothing else. -/
theorem clearDisplayBlanksEveryCell : Obligations.ClearDisplayBlanksEveryCell :=
  ⟨rfl, fun s => ⟨(s.setFb Framebuffer.blank).advance, rfl, Framebuffer.cell_blank, rfl, fun _ _ => rfl, rfl, ⟨rfl, rfl⟩,
    ⟨rfl, rfl⟩, fun _ => rfl, ⟨rfl, rfl⟩, fun h => step_of_fetchesInstr h rfl⟩⟩

/-! ## The sprite mask -/

/-- The sprite mask of a draw from the state before it: the framebuffer cells that the sprite covers (R146(b)). -/
def drawMask (x y : RegIx) (n : BitVec 4) (s : State) (r : Row) (c : Col) : Bool :=
  spriteRowsCover (s.readV x).toNat (s.readV y).toNat 0 (s.mem.readBytes s.base n.toNat) r c

theorem drawMask_iff {r : Row} {c : Col} :
    drawMask x y n s r c = true ↔ spriteCovers s (s.readV x).toNat (s.readV y).toNat n.toNat r c := by
  simp only [drawMask, spriteRowsCover_readBytes, Nat.zero_add, spriteCovers, State.base]

/-- The mask depends on the state through the sprite alone, and on the origin through its place on the screen (R145). -/
theorem drawMask_congr {s s' : State} (hindex : s.index = s'.index) (hmem : s.mem = s'.mem)
    (hx : (s.readV x).toNat % 64 = (s'.readV x).toNat % 64) (hy : (s.readV y).toNat % 32 = (s'.readV y).toNat % 32) :
    drawMask x y n s = drawMask x y n s' := by
  funext r c
  have hrow : ∀ row, ((s.readV y).toNat + row) % 32 = ((s'.readV y).toNat + row) % 32 := by omega
  have hcol : ∀ col, ((s.readV x).toNat + col) % 64 = ((s'.readV x).toNat + col) % 64 := by omega
  rw [Bool.eq_iff_iff, drawMask_iff, drawMask_iff]
  simp only [spriteCovers, hindex, hmem, hrow, hcol]

/-! ## What draw does -/

theorem toNat_flagByte (b : Bool) : (flagByte b).toNat = b.toNat := by cases b <;> rfl

theorem exec_draw_of_inRange (hr : n.toNat = 0 ∨ s.base + n.toNat ≤ 4096) : exec (.draw x y n) s =
    .next ((s.setFb (drawBlit x y n s).fb).writeV VF (collisionFlag (drawBlit x y n s).collision)).advance :=
  (guardRange_eq _ _ _).trans (if_pos hr)

/-- Draw is the exclusive or with the sprite mask (R146(b)). -/
theorem execDraw_cell (h : exec (.draw x y n) s = .next t) (r : Row) (c : Col) :
    t.fb.cell r c = (s.fb.cell r c ^^ drawMask x y n s r c) := by
  obtain ⟨-, rfl⟩ := execDraw_next h
  obtain ⟨hcovered, huncovered⟩ := (drawBlit_spec x y n s).1 r c
  cases hm : drawMask x y n s r c with
  | true => simp [hcovered (drawMask_iff.1 hm)]
  | false => simp [huncovered fun hc => Bool.eq_false_iff.1 hm (drawMask_iff.2 hc)]

/-- VF reports whether the mask met a cell that was on (R144). -/
theorem execDraw_flag (h : exec (.draw x y n) s = .next t) :
    t.readV VF = flagByte (decide (∃ r c, drawMask x y n s r c = true ∧ s.fb.cell r c = true)) := by
  obtain ⟨-, rfl⟩ := execDraw_next h
  simp [collisionFlag, drawMask_iff, ← (drawBlit_spec x y n s).2]

/-- Settles O26: the word by its number, the cells and VF by the mask, the fault by the range. -/
theorem drawXorsTheSpriteMask : Obligations.DrawXorsTheSpriteMask := by
  intro s x y n
  refine ⟨decode_ofNat rfl (toNat_formatXYN 0xD x y n), fun hrange => ?_, fun hn hrange => ?_⟩
  · have h : exec (.draw x y n) s = _ := exec_draw_of_inRange (by omega)
    simp only [← drawMask_iff]
    refine ⟨_, h, fun r c => ⟨fun hc => ?_, fun hc => ?_⟩, fun hon => ?_, fun hoff => ?_, rfl, ?_, rfl, ⟨rfl, rfl⟩,
      ⟨rfl, rfl⟩, fun _ => rfl, rfl, rfl⟩
    · rw [execDraw_cell h, hc, Bool.xor_true]
    · rw [execDraw_cell h, Bool.eq_false_iff.2 hc, Bool.xor_false]
    · rw [execDraw_flag h, toNat_flagByte, decide_eq_true hon, Bool.toNat_true]
    · have hnone : ¬∃ r c, drawMask x y n s r c = true ∧ s.fb.cell r c = true :=
        fun ⟨r, c, hc, hon⟩ => Bool.eq_false_iff.1 (hoff r c hc) hon
      rw [execDraw_flag h, toNat_flagByte, decide_eq_false hnone, Bool.toNat_false]
    · exact registersWrittenAreThoseNamed _ s _ h
  · exact guardRange_eq_fault.2 ⟨by omega, by omega, rfl⟩

/-- Settles O27: the second draw has the mask of the first, and the exclusive or with one mask twice is the identity; the
cells of the mask that are on before the second draw are those that the first turned on. -/
theorem drawingTwiceRestores : Obligations.DrawingTwiceRestores := by
  intro s t u x y n hx hy ht hu
  have hmask : drawMask x y n t = drawMask x y n s := by
    obtain ⟨-, rfl⟩ := execDraw_next ht
    exact drawMask_congr rfl rfl (by simp [hx]) (by simp [hy])
  refine ⟨Framebuffer.ext_cells fun r c => ?_, ?_⟩
  · rw [execDraw_cell hu, execDraw_cell ht, hmask, Bool.xor_assoc, Bool.xor_self, Bool.xor_false]
  · rw [execDraw_flag hu, toNat_flagByte, Bool.toNat_eq_one, decide_eq_true_iff, hmask]
    refine exists_congr fun r => exists_congr fun c => ?_
    rw [execDraw_cell ht]
    cases s.fb.cell r c <;> simp

/-- Settles O28: the two draws lay one mask over one framebuffer. -/
theorem drawOriginCountsModuloTheScreen : Obligations.DrawOriginCountsModuloTheScreen := by
  intro s t s' t' x y n hindex hmem hfb hx hy ht ht'
  have hmask : drawMask x y n s = drawMask x y n s' := drawMask_congr hindex hmem hx hy
  refine ⟨Framebuffer.ext_cells fun r c => ?_, ?_⟩
  · rw [execDraw_cell ht, execDraw_cell ht', hmask, hfb]
  · rw [execDraw_flag ht, execDraw_flag ht', hmask, hfb]

end Sys2Proof.Machine
end

section
/-! PROOFS. Control flow (42_control_flow.md): the jumps, call and return as inverse operations on the stack, and the four
register skips. -/

namespace Sys2Proof.Machine

variable {s : State}

/-! ## Frames -/

theorem State.onlyRegisters_setPc (s : State) (p : Word) : OnlyRegisters [] s (s.setPc p) :=
  ⟨fun _ _ => rfl, rfl, ⟨rfl, rfl⟩, ⟨rfl, rfl⟩, fun _ => rfl, rfl, rfl, rfl⟩

theorem State.onlyRegisters_skipIf (s : State) (c : Bool) : OnlyRegisters [] s (s.skipIf c) := by
  cases c with
  | false => exact s.onlyRegisters_setPc _
  | true => exact s.onlyRegisters_setPc _

/-! ## Call and return (R150, R152) -/

theorem exec_call_of_room (addr : BitVec 12) {j : Fin 16} (hj : s.sp.val = j.val) :
    exec (.call addr) s = .next (((s.setLink j s.pc).setSp j.succ).setPc (zextAddr addr)) := by
  obtain ⟨j, hlt⟩ := j
  obtain rfl : s.sp.val = j := hj
  rw [exec, execCall, State.push?_of_lt s.pc hlt]
  rfl

theorem exec_call_of_full (addr : BitVec 12) (hfull : s.sp.val = 16) :
    exec (.call addr) s = .fault (.stackOverflow s.pc) := by
  rw [exec, execCall, State.push?_eq_none.2 hfull, raise]

theorem exec_ret_of_link {j : Fin 16} (hj : s.sp.val = j.val + 1) :
    exec .ret s = .next ((s.setSp j.castSucc).setPc (s.stack[j] + 2)) := by
  have hpos : 0 < s.sp.val := hj ▸ Nat.succ_pos j.val
  obtain ⟨j, hlt⟩ := j
  obtain rfl : s.sp.val - 1 = j := Nat.sub_eq_of_eq_add hj
  rw [exec, execRet, State.pop?_of_pos hpos]
  rfl

theorem exec_ret_of_empty (hempty : s.sp.val = 0) : exec .ret s = .fault (.stackUnderflow s.pc) := by
  rw [exec, execRet, State.pop?_eq_none.2 hempty, raise]

/-- Settles O32: the link that return pops is the entry that call wrote, its own address. -/
theorem returnUndoesCall : Obligations.ReturnUndoesCall := by
  intro s t m addr hcall hsp hstack
  obtain ⟨hlt, rfl⟩ := execCall_next hcall
  have hlink : m.stack[s.sp.val] = s.pc := by simp [hstack]
  have hret := exec_ret_of_link (s := m) (j := ⟨s.sp.val, hlt⟩) (by rw [hsp])
  exact ⟨_, hret, congrArg (· + 2) hlink, rfl⟩

/-- Settles O30: a link is pushed where there is room, and the rest of the state is not touched. -/
theorem callPushesItsOwnAddress : Obligations.CallPushesItsOwnAddress := by
  refine fun s addr => ⟨decode_ofNat rfl (toNat_formatA 0x2 addr), fun j hj => ?_, exec_call_of_full addr⟩
  refine ⟨_, exec_call_of_room addr hj, toNat_zextAddr addr, congrArg (· + 1) hj.symm, ?_, fun k hk => ?_,
    fun _ _ => rfl, rfl, ⟨rfl, rfl⟩, fun _ => rfl, rfl, rfl, rfl⟩
  · exact Vector.getElem_set_self j.isLt
  · exact Vector.getElem_set_ne j.isLt k.isLt (Fin.val_ne_of_ne hk.symm)

/-- Settles O31: the newest link is popped where there is one, its entry staying in the stack. -/
theorem returnGoesPastTheCall : Obligations.ReturnGoesPastTheCall := by
  refine ⟨rfl, fun s => ⟨fun j hj => ?_, exec_ret_of_empty⟩⟩
  exact ⟨_, exec_ret_of_link hj, rfl, rfl, rfl, fun _ _ => rfl, rfl, ⟨rfl, rfl⟩, fun _ => rfl, rfl, rfl, rfl⟩

/-! ## Jumps (R151, R160) -/

/-- Settles O29: both jumps set `pc` alone, to the value that R125 gives their class. -/
theorem jumpsSetTheProgramCounter : Obligations.JumpsSetTheProgramCounter := by
  refine fun s addr => ⟨⟨decode_ofNat rfl (toNat_formatA 0x1 addr), _, rfl, ?_, s.onlyRegisters_setPc _⟩,
    decode_ofNat rfl (toNat_formatA 0xB addr), _, rfl, ?_, s.onlyRegisters_setPc _⟩
  · exact newProgramCounter (.jump addr) s _ rfl
  · exact newProgramCounter (.jumpWithOffset addr) s _ rfl

/-! ## Register skips (R154 to R157) -/

theorem exec_next_of_skipIf {i : Instr} {c : Bool} {P : Prop} [Decidable P] (hexec : exec i s = .next (s.skipIf c))
    (hc : c = true ↔ P) :
    ∃ t, exec i s = .next t ∧ t.pc = (if P then s.pc + 4 else s.pc + 2) ∧ OnlyRegisters [] s t :=
  ⟨s.skipIf c, hexec, by simp only [State.skipIf_pc, hc], s.onlyRegisters_skipIf c⟩

/-- Settles O33: the four are one skip, each on its own test. -/
theorem skipsTestAndAdvance : Obligations.SkipsTestAndAdvance := fun _ x y kk =>
  ⟨⟨decode_ofNat rfl (toNat_formatXK 0x3 x kk), exec_next_of_skipIf rfl beq_iff_eq⟩,
    ⟨decode_ofNat rfl (toNat_formatXK 0x4 x kk), exec_next_of_skipIf rfl bne_iff_ne⟩,
    ⟨decode_ofNat rfl (toNat_formatXYN 0x5 x y 0x0), exec_next_of_skipIf rfl beq_iff_eq⟩,
    ⟨decode_ofNat rfl (toNat_formatXYN 0x9 x y 0x0), exec_next_of_skipIf rfl bne_iff_ne⟩⟩

end Sys2Proof.Machine
end

section
/-! PROOFS. Registers and arithmetic (43_register_alu.md): one lemma for the instructions that write `V[x]` alone, one for
those that write VF before it (R177), and each flag as a number. -/

namespace Sys2Proof.Machine

variable {s : State} {i : Instr} {x : RegIx}

/-! ## Words of family 8 (R96) -/

theorem toNat_formatXYN_family8 (x y : RegIx) (n : BitVec 4) :
    (formatXYN 0x8 x y n).toNat = 0x8000 + n.toNat + x.val * 256 + y.val * 16 := by
  have hop : (0x8 : BitVec 4).toNat = 0x8 := rfl
  rw [toNat_formatXYN, hop]
  omega

/-! ## Frames -/

theorem State.onlyRegisters_writeV (s : State) (x : RegIx) (b : Byte) : OnlyRegisters [x] s (s.writeV x b).advance := by
  refine ⟨fun j hj => ?_, rfl, ⟨rfl, rfl⟩, ⟨rfl, rfl⟩, fun _ => rfl, rfl, rfl, rfl⟩
  rw [State.readV_advance, State.readV_writeV, if_neg (List.ne_of_not_mem_cons hj)]

theorem State.onlyRegisters_writeFlagged (s : State) (x : RegIx) (f b : Byte) :
    OnlyRegisters [x, VF] s (s.writeFlagged x f b).advance := by
  refine ⟨fun j hj => ?_, rfl, ⟨rfl, rfl⟩, ⟨rfl, rfl⟩, fun _ => rfl, rfl, rfl, rfl⟩
  have hvf : j ≠ VF := List.ne_of_not_mem_cons (List.not_mem_of_not_mem_cons hj)
  rw [State.readV_advance, State.readV_writeFlagged, if_neg (List.ne_of_not_mem_cons hj), if_neg hvf]

/-! ## Instructions without a flag (R170 to R175) -/

theorem exec_next_of_writeV {b : Byte} (hexec : exec i s = .next (s.writeV x b).advance) :
    ∃ t, exec i s = .next t ∧ t.readV x = b ∧ t.pc = s.pc + 2 ∧ OnlyRegisters [x] s t :=
  ⟨_, hexec, s.readV_writeV_same x b, rfl, s.onlyRegisters_writeV x b⟩

theorem exec_next_of_writeV_toNat {b : Byte} {m : Nat} (hexec : exec i s = .next (s.writeV x b).advance)
    (hb : b.toNat = m) :
    ∃ t, exec i s = .next t ∧ (t.readV x).toNat = m ∧ t.pc = s.pc + 2 ∧ OnlyRegisters [x] s t := by
  obtain ⟨t, ht, rfl, hrest⟩ := exec_next_of_writeV hexec
  exact ⟨t, ht, hb, hrest⟩

theorem exec_next_of_writeV_getLsbD {b : Byte} {bit : Nat → Bool} (hexec : exec i s = .next (s.writeV x b).advance)
    (hb : ∀ k, b.getLsbD k = bit k) :
    ∃ t, exec i s = .next t ∧ (∀ k < 8, (t.readV x).getLsbD k = bit k) ∧ t.pc = s.pc + 2 ∧ OnlyRegisters [x] s t := by
  obtain ⟨t, ht, rfl, hrest⟩ := exec_next_of_writeV hexec
  exact ⟨t, ht, fun k _ => hb k, hrest⟩

/-- Settles O34: both write `V[x]` alone, the second the sum of bytes. -/
theorem immediateFormsSetOneRegister : Obligations.ImmediateFormsSetOneRegister := fun s x kk =>
  ⟨⟨decode_ofNat rfl (toNat_formatXK 0x6 x kk), exec_next_of_writeV rfl⟩,
    decode_ofNat rfl (toNat_formatXK 0x7 x kk), exec_next_of_writeV_toNat rfl (BitVec.toNat_add (s.readV x) kk)⟩

/-- Settles O35: all four write `V[x]` alone, the logic operations bit by bit. -/
theorem moveAndLogicSetOneRegister : Obligations.MoveAndLogicSetOneRegister := fun _ x y =>
  ⟨⟨decode_ofNat rfl (toNat_formatXYN_family8 x y 0x0), exec_next_of_writeV rfl⟩,
    ⟨decode_ofNat rfl (toNat_formatXYN_family8 x y 0x1), exec_next_of_writeV_getLsbD rfl fun _ => BitVec.getLsbD_or⟩,
    ⟨decode_ofNat rfl (toNat_formatXYN_family8 x y 0x2), exec_next_of_writeV_getLsbD rfl fun _ => BitVec.getLsbD_and⟩,
    ⟨decode_ofNat rfl (toNat_formatXYN_family8 x y 0x3), exec_next_of_writeV_getLsbD rfl fun _ => BitVec.getLsbD_xor⟩⟩

/-! ## Instructions with a flag (R177 to R182) -/

/-- The result is written after the flag, so it is what `V[x]` holds even with `x` = 15 (R177). -/
theorem exec_next_of_writeFlagged {f b : Byte} {m n : Nat} (hexec : exec i s = .next (s.writeFlagged x f b).advance)
    (hb : b.toNat = m) (hf : f.toNat = n) :
    ∃ t, exec i s = .next t ∧ (t.readV x).toNat = m ∧ (x ≠ VF → (t.readV VF).toNat = n) ∧ t.pc = s.pc + 2 ∧
      OnlyRegisters [x, VF] s t := by
  refine ⟨_, hexec, ?_, fun hx => ?_, rfl, s.onlyRegisters_writeFlagged x f b⟩
  · rw [State.readV_advance, State.readV_writeFlagged, if_pos rfl, hb]
  · rw [State.readV_advance, State.readV_writeFlagged, if_neg hx.symm, if_pos rfl, hf]

theorem toNat_flagByte_decide (P : Prop) [Decidable P] : (flagByte (decide P)).toNat = if P then 1 else 0 :=
  (toNat_flagByte _).trans (Bool.cond_decide P 1 0)

theorem toNat_carryFlag (a b : Byte) : (carryFlag a b).toNat = if a.toNat + b.toNat > 255 then 1 else 0 :=
  toNat_flagByte_decide _

theorem toNat_greaterFlag (a b : Byte) : (greaterFlag a b).toNat = if a.toNat > b.toNat then 1 else 0 :=
  toNat_flagByte_decide _

theorem toNat_lowBitFlag (a : Byte) : (lowBitFlag a).toNat = a.toNat % 2 := by
  rw [lowBitFlag, toNat_flagByte, BitVec.getLsbD, Nat.toNat_testBit, pow_zero, Nat.div_one]

theorem toNat_highBitFlag (a : Byte) : (highBitFlag a).toNat = a.toNat / 128 := by
  have hbit : a.toNat / 128 < 2 := Nat.div_lt_of_lt_mul a.isLt
  rw [highBitFlag, toNat_flagByte, BitVec.getLsbD, Nat.toNat_testBit]
  exact Nat.mod_eq_of_lt hbit

theorem toNat_byte_sub (a b : Byte) : (a - b).toNat = (a.toNat + 256 - b.toNat) % 256 := by
  rw [BitVec.toNat_sub]
  omega

theorem toNat_byte_shiftRight_one (a : Byte) : (a >>> 1).toNat = a.toNat / 2 := by
  rw [BitVec.toNat_ushiftRight, Nat.shiftRight_one]

theorem toNat_byte_shiftLeft_one (a : Byte) : (a <<< 1).toNat = a.toNat * 2 % 256 := by
  rw [BitVec.toNat_shiftLeft, Nat.shiftLeft_eq, pow_one]

/-- Settles O36: the byte written is the sum reduced modulo 256, and the flag is the test that it was reduced. -/
theorem registerAddSumsAndCarries : Obligations.RegisterAddSumsAndCarries := fun _ x y =>
  ⟨decode_ofNat rfl (toNat_formatXYN_family8 x y 0x4),
    exec_next_of_writeFlagged rfl (BitVec.toNat_ofNat _ _) (toNat_carryFlag _ _)⟩

/-- Settles O37: one difference and one comparison, the operands in both orders. -/
theorem subtractionsCompareStrictly : Obligations.SubtractionsCompareStrictly := fun _ x y =>
  ⟨⟨decode_ofNat rfl (toNat_formatXYN_family8 x y 0x5),
      exec_next_of_writeFlagged rfl (toNat_byte_sub _ _) (toNat_greaterFlag _ _)⟩,
    decode_ofNat rfl (toNat_formatXYN_family8 x y 0x7),
    exec_next_of_writeFlagged rfl (toNat_byte_sub _ _) (toNat_greaterFlag _ _)⟩

/-- Settles O38: neither shift reads `V[y]`; the flag is the bit that the quotient or the product loses. -/
theorem shiftsMoveVxByOne : Obligations.ShiftsMoveVxByOne := fun _ x y =>
  ⟨⟨decode_ofNat rfl (toNat_formatXYN_family8 x y 0x6),
      exec_next_of_writeFlagged rfl (toNat_byte_shiftRight_one _) (toNat_lowBitFlag _)⟩,
    decode_ofNat rfl (toNat_formatXYN_family8 x y 0xE),
    exec_next_of_writeFlagged rfl (toNat_byte_shiftLeft_one _) (toNat_highBitFlag _)⟩

end Sys2Proof.Machine
end

section
/-! PROOFS. The index register and memory (44_index_memory.md): the instructions that set `I`, that no other changes it, and
the stores and the load of a block at `I` (R200 to R209). -/

namespace Sys2Proof.Machine

variable {s t : State} {i : Instr} {x : RegIx}

/-! ## Words of family F (R96) -/

theorem toNat_formatXK_familyF (x : RegIx) (kk : Byte) :
    (formatXK 0xF x kk).toNat = 0xF000 + kk.toNat + x.val * 256 := by
  have hop : (0xF : BitVec 4).toNat = 0xF := rfl
  rw [toNat_formatXK, hop]
  omega

/-! ## The index register (R200, R202, R203, R209) -/

theorem exec_index (h : exec i s = .next t) (hload : ∀ addr, i ≠ .loadIndex addr) (hadd : ∀ x, i ≠ .addToIndex x)
    (hglyph : ∀ x, i ≠ .loadGlyphAddress x) : t.index = s.index := by
  cases i with
  | loadIndex addr => exact absurd rfl (hload addr)
  | addToIndex x => exact absurd rfl (hadd x)
  | loadGlyphAddress x => exact absurd rfl (hglyph x)
  | ret =>
    obtain ⟨-, rfl⟩ := execRet_next h
    rfl
  | call addr =>
    obtain ⟨-, rfl⟩ := execCall_next h
    rfl
  | draw | storeBcd | registerDump | registerLoad =>
    obtain ⟨-, rfl⟩ := guardRange_next h
    rfl
  | skipIfKeyPressed x =>
    obtain ⟨k, -, rfl⟩ := execSkipIfKeyPressed_next h
    exact s.skipIf_index _
  | skipIfKeyNotPressed x =>
    obtain ⟨k, -, rfl⟩ := execSkipIfKeyNotPressed_next h
    exact s.skipIf_index _
  | waitForKey x => rcases execWaitForKey_next h with ⟨k, -, -, rfl⟩ | ⟨-, rfl⟩ <;> rfl
  | skipIfEqualImmediate | skipIfNotEqualImmediate | skipIfRegistersEqual | skipIfRegistersNotEqual =>
    cases h
    exact s.skipIf_index _
  | clearDisplay | systemCall | unassigned | jump | jumpWithOffset | loadImmediate | addImmediate | registerMove
  | registerOr | registerAnd | registerXor | registerAdd | registerSubtract | registerSubtractReverse | shiftRight
  | shiftLeft | randomAnd | readDelayTimer | setDelayTimer | setSoundTimer =>
    cases h
    rfl

/-- Settles O18, by the frame of `I`. -/
theorem indexKeptByItsUsers : Obligations.IndexKeptByItsUsers := by
  intro i s t h hne
  by_contra hnone
  simp only [not_or, not_exists] at hnone
  obtain ⟨hload, hadd, hglyph⟩ := hnone
  exact hne (exec_index h hload hadd hglyph)

theorem exec_next_of_setIndex {w : Word} {m : Nat} (hexec : exec i s = .next (s.setIndex w).advance)
    (hw : w.toNat = m) :
    ∃ t, exec i s = .next t ∧ t.index.toNat = m ∧ t.pc = s.pc + 2 ∧ SameRegsBut [] s t ∧ SameStack s t ∧
      SameTimers s t ∧ SameMem s t ∧ SameFb s t ∧ SameInputs s t :=
  ⟨_, hexec, hw, rfl, fun _ _ => rfl, ⟨rfl, rfl⟩, ⟨rfl, rfl⟩, fun _ => rfl, rfl, rfl, rfl⟩

theorem toNat_add_zextByte (w : Word) (b : Byte) : (w + zextByte b).toNat = (w.toNat + b.toNat) % 65536 := by
  rw [BitVec.toNat_add, toNat_zextByte]

/-- Five times a byte fits a word, so the glyph address of the whole byte is not reduced. -/
theorem toNat_glyphAddress (b : Byte) : (BitVec.ofNat 16 (b.toNat * Config.glyphStride)).toNat = b.toNat * 5 := by
  have hb := b.isLt
  exact Nat.mod_eq_of_lt (by simp only [Config.glyphStride]; omega)

/-- Settles O40: each of the three sets `I` alone. -/
theorem indexInstructionsSetI : Obligations.IndexInstructionsSetI := fun _ addr x =>
  ⟨⟨decode_ofNat rfl (toNat_formatA 0xA addr), exec_next_of_setIndex rfl (toNat_zextAddr addr)⟩,
    ⟨decode_ofNat rfl (toNat_formatXK_familyF x 0x1E), exec_next_of_setIndex rfl (toNat_add_zextByte _ _)⟩,
    decode_ofNat rfl (toNat_formatXK_familyF x 0x29), exec_next_of_setIndex rfl (toNat_glyphAddress _)⟩

/-! ## Accesses in and out of range (R70) -/

theorem guardRange_of_inRange {base count : Nat} (h : base + count ≤ 4096) (t : State) :
    guardRange base count t = .next t :=
  (guardRange_eq _ _ _).trans (if_pos (.inr h))

/-- The last of `count + 1` bytes lies above 4095 (R70). -/
theorem guardRange_of_outOfRange {base count : Nat} (h : base + count > 4095) (t : State) :
    guardRange base (count + 1) t = .fault (.outOfBounds (max base 4096)) :=
  guardRange_eq_fault.2 ⟨Nat.succ_ne_zero count, Nat.succ_lt_succ h, rfl⟩

/-! ## Stores at `I` (R204, R206) -/

theorem Memory.read_writeBytes_getElem (m : Memory) (a : Nat) {us : List Byte} {k : Nat} (hk : k < us.length) :
    (m.writeBytes a us).read (a + k) = us[k] := by
  rw [Memory.read_writeBytes, dif_pos ⟨Nat.le_add_right a k, Nat.add_lt_add_left hk a⟩]
  simp

/-- A guarded store at `I`, in range, writes its bytes and changes nothing else but `pc`. -/
theorem exec_next_of_writeBytes {us : List Byte} {n : Nat}
    (hexec : exec i s = guardRange s.base n (s.setMem (s.mem.writeBytes s.base us)).advance) (hlen : us.length = n)
    (hrange : s.base + n ≤ 4096) :
    ∃ t, exec i s = .next t ∧ t.mem = s.mem.writeBytes s.base us ∧ t.pc = s.pc + 2 ∧ SameMemOutside s.base n s t ∧
      SameRegsBut [] s t ∧ SameIndex s t ∧ SameStack s t ∧ SameTimers s t ∧ SameFb s t ∧ SameInputs s t := by
  subst hlen
  exact ⟨_, hexec.trans (guardRange_of_inRange hrange _), rfl, rfl,
    fun a ha => Memory.read_writeBytes_outside us s.mem ha, fun _ _ => rfl, rfl, ⟨rfl, rfl⟩, ⟨rfl, rfl⟩, rfl, rfl, rfl⟩

/-- The digits fit a byte, so storing them as bytes loses nothing. -/
theorem map_toNat_bcdDigits (b : Byte) :
    (bcdDigits b).map BitVec.toNat = [b.toNat / 100, b.toNat / 10 % 10, b.toNat % 10] := by
  have hb := b.isLt
  simp only [bcdDigits, List.map_cons, List.map_nil, BitVec.toNat_ofNat, List.cons.injEq, and_true]
  omega

theorem toNat_read_writeBytes_bcdDigits (m : Memory) (a : Nat) (b : Byte) {k : Nat} (hk : k < 3) :
    ((m.writeBytes a (bcdDigits b)).read (a + k)).toNat = [b.toNat / 100, b.toNat / 10 % 10, b.toNat % 10][k] := by
  simp only [← map_toNat_bcdDigits, List.getElem_map]
  rw [Memory.read_writeBytes_getElem]

/-- Settles O41: the store of the three digits. -/
theorem storeBcdWritesThreeDigits : Obligations.StoreBcdWritesThreeDigits := by
  intro s x
  refine ⟨decode_ofNat rfl (toNat_formatXK_familyF x 0x33), fun hrange => ?_,
    fun hrange => guardRange_of_outOfRange hrange _⟩
  obtain ⟨t, ht, hmem, hframe⟩ := exec_next_of_writeBytes (i := .storeBcd x) rfl rfl (Nat.succ_le_succ hrange)
  have hdigit {k : Nat} (hk : k < 3) := toNat_read_writeBytes_bcdDigits s.mem s.base (s.readV x) hk
  rw [← hmem] at hdigit
  exact ⟨t, ht, hdigit (k := 0) (by decide), hdigit (k := 1) (by decide), hdigit (k := 2) (by decide), hframe⟩

/-- Settles O42: the store of the register block. -/
theorem registerDumpStoresTheBlock : Obligations.RegisterDumpStoresTheBlock := by
  intro s x
  refine ⟨decode_ofNat rfl (toNat_formatXK_familyF x 0x55), fun hrange => ?_,
    fun hrange => guardRange_of_outOfRange hrange _⟩
  obtain ⟨t, ht, hmem, hframe⟩ :=
    exec_next_of_writeBytes (i := .registerDump x) rfl (s.length_regBlock x) (Nat.succ_le_succ hrange)
  refine ⟨t, ht, fun j hj => ?_, hframe⟩
  rw [hmem]
  exact s.read_writeBytes_regBlock s.mem s.base hj

/-! ## Register-load (R208) -/

/-- A guarded load of registers from `I`, in range, changes nothing else but `pc`. -/
theorem exec_next_of_setRegs {w : Vector Byte 16} {n : Nat}
    (hexec : exec i s = guardRange s.base n (s.setRegs w).advance) (hrange : s.base + n ≤ 4096) :
    ∃ t, exec i s = .next t ∧ (∀ j : RegIx, t.readV j = w[j]) ∧ t.pc = s.pc + 2 ∧ SameMem s t ∧ SameIndex s t ∧
      SameStack s t ∧ SameTimers s t ∧ SameFb s t ∧ SameInputs s t :=
  ⟨_, hexec.trans (guardRange_of_inRange hrange _), fun _ => rfl, rfl, fun _ => rfl, rfl, ⟨rfl, rfl⟩, ⟨rfl, rfl⟩, rfl,
    rfl, rfl⟩

/-- Settles O43: the registers after the load by `getElem_loadedBlock`, up to `x` and above it. -/
theorem registerLoadReadsTheBlock : Obligations.RegisterLoadReadsTheBlock := by
  intro s x
  refine ⟨decode_ofNat rfl (toNat_formatXK_familyF x 0x65), fun hrange => ?_,
    fun hrange => guardRange_of_outOfRange hrange _⟩
  obtain ⟨t, ht, hregs, hframe⟩ := exec_next_of_setRegs (i := .registerLoad x) rfl (Nat.succ_le_succ hrange)
  refine ⟨t, ht, fun j hj => ?_, fun j hj => ?_, hframe⟩
  · rw [hregs, State.getElem_loadedBlock, if_pos (Fin.le_def.1 hj)]
  · rw [hregs, State.getElem_loadedBlock, if_neg (Nat.not_le_of_lt (Fin.lt_def.1 hj))]

/-- Settles O44: the dump was in range, so the load from the same `I` is, and it reads the bytes that the dump wrote. -/
theorem loadAfterDumpRestores : Obligations.LoadAfterDumpRestores := by
  intro s t m x hdump hindex hsame
  obtain ⟨hrange, rfl⟩ := execRegisterDump_next hdump
  have hbase : m.base = s.base := congrArg BitVec.toNat hindex
  obtain ⟨-, hload, -⟩ := registerLoadReadsTheBlock m x
  obtain ⟨u, hu, hblock, -⟩ := hload (by omega)
  refine ⟨u, hu, fun j hj => ?_⟩
  rw [hblock j hj, hsame, hbase]
  exact s.read_writeBytes_regBlock s.mem s.base hj

end Sys2Proof.Machine
end

section
/-! PROOFS. The keypad and the timers (45_keypad_timers.md): what the key skips, wait-for-key and the three timer
instructions answer in each case of the latch and of `V[x]`, and the tick that follows them in a step. -/

namespace Sys2Proof.Machine

variable {s : State} {x : RegIx} {k : KeyIx}

/-! ## Key skips (R220 to R222) -/

theorem keyOfByte_of_toNat_eq {b : Byte} (h : b.toNat = k.val) : keyOfByte b = some k := by
  rw [keyOfByte_of_lt (h ▸ k.isLt)]
  exact congrArg some (Fin.ext h)

theorem exec_skipIfKeyPressed_of_key (hk : (s.readV x).toNat = k.val) :
    exec (.skipIfKeyPressed x) s = .next (s.skipIf s.keys[k]) := by
  rw [exec, execSkipIfKeyPressed, keyOfByte_of_toNat_eq hk]

theorem exec_skipIfKeyNotPressed_of_key (hk : (s.readV x).toNat = k.val) :
    exec (.skipIfKeyNotPressed x) s = .next (s.skipIf (!s.keys[k])) := by
  rw [exec, execSkipIfKeyNotPressed, keyOfByte_of_toNat_eq hk]

theorem exec_skipIfKeyPressed_of_noKey (h : (s.readV x).toNat > 15) :
    exec (.skipIfKeyPressed x) s = .fault (.keyIndexOutOfRange (s.readV x)) := by
  rw [exec, execSkipIfKeyPressed, keyOfByte_eq_none.2 h, raise]

theorem exec_skipIfKeyNotPressed_of_noKey (h : (s.readV x).toNat > 15) :
    exec (.skipIfKeyNotPressed x) s = .fault (.keyIndexOutOfRange (s.readV x)) := by
  rw [exec, execSkipIfKeyNotPressed, keyOfByte_eq_none.2 h, raise]

/-- Settles O45: where `V[x]` names a key, both are the skip of the register skips, on the level of that key. -/
theorem keySkipsReadOneKey : Obligations.KeySkipsReadOneKey := by
  refine fun s x => ⟨decode_ofNat rfl ((toNat_formatXK 0xE x 0x9E).trans (Nat.add_right_comm _ _ _)),
    decode_ofNat rfl ((toNat_formatXK 0xE x 0xA1).trans (Nat.add_right_comm _ _ _)), fun k hk => ⟨?_, ?_⟩,
    fun h => ⟨exec_skipIfKeyPressed_of_noKey h, exec_skipIfKeyNotPressed_of_noKey h⟩⟩
  · exact exec_next_of_skipIf (exec_skipIfKeyPressed_of_key hk) Iff.rfl
  · exact exec_next_of_skipIf (exec_skipIfKeyNotPressed_of_key hk) (Bool.not_eq_true' _).to_iff

/-! ## Wait-for-key (R224) -/

theorem exec_waitForKey_of_least (hk : s.keys[k] = true) (hleast : ∀ j : KeyIx, j < k → s.keys[j] = false) :
    exec (.waitForKey x) s = .next (s.writeV x (BitVec.ofNat 8 k.val)).advance := by
  rw [exec, execWaitForKey, Keypad.firstPressed_eq_some.2 ⟨hk, hleast⟩]

/-- With no key pressed the state stays whole: `pc` is written with its own value. -/
theorem exec_waitForKey_of_none (hnone : ∀ k : KeyIx, s.keys[k] = false) : exec (.waitForKey x) s = .next s := by
  rw [exec, execWaitForKey, Keypad.firstPressed_eq_none.2 hnone]
  rfl

theorem toNat_byte_ofKey (k : KeyIx) : (BitVec.ofNat 8 k.val).toNat = k.val :=
  Nat.mod_eq_of_lt (k.isLt.trans (by decide))

/-- The tick writes neither `pc` nor memory, so what is fetched after it is what would have been fetched before. -/
theorem fetchesInstr_tick {i : Instr} : FetchesInstr (tick s) i ↔ FetchesInstr s i := Iff.rfl

/-- Settles O46: a least pressed key is written to `V[x]`; with none pressed the step is the tick alone, after which the
same instruction is fetched. -/
theorem waitForKeyPollsTheLeastKey : Obligations.WaitForKeyPollsTheLeastKey := by
  refine fun s x => ⟨decode_ofNat rfl (toNat_formatXK_familyF x 0x0A), fun k hk hleast => ?_,
    fun hnone => ⟨?_, fun hi => ?_⟩⟩
  · exact exec_next_of_writeV_toNat (exec_waitForKey_of_least hk hleast) (toNat_byte_ofKey k)
  · exact ⟨s, exec_waitForKey_of_none hnone, rfl, s.onlyRegisters_setPc s.pc⟩
  · exact ⟨tick s, step_of_fetchesInstr hi (exec_waitForKey_of_none hnone), fetchesInstr_tick.2 hi, toNat_decay s.dt,
      toNat_decay s.st⟩

/-! ## Timers (R225 to R228) -/

theorem exec_readDelayTimer (s : State) (x : RegIx) :
    exec (.readDelayTimer x) s = .next (s.writeV x s.dt).advance := rfl

theorem exec_setDelayTimer (s : State) (x : RegIx) :
    exec (.setDelayTimer x) s = .next (s.setDelay (s.readV x)).advance := rfl

theorem exec_setSoundTimer (s : State) (x : RegIx) :
    exec (.setSoundTimer x) s = .next (s.setSound (s.readV x)).advance := rfl

/-- Settles O47: each copies one byte, and the tick of the step lowers the timer that the copy left. -/
theorem timerInstructionsAndTheirTick : Obligations.TimerInstructionsAndTheirTick := by
  refine fun s x => ⟨⟨decode_ofNat rfl (toNat_formatXK_familyF x 0x07), ?_, fun hi => ?_⟩,
    ⟨decode_ofNat rfl (toNat_formatXK_familyF x 0x15), ?_, fun hi => ?_⟩,
    decode_ofNat rfl (toNat_formatXK_familyF x 0x18), ?_, fun hi => ?_⟩
  · exact exec_next_of_writeV (exec_readDelayTimer s x)
  · exact ⟨_, step_of_fetchesInstr hi (exec_readDelayTimer s x), s.readV_writeV_same x s.dt, toNat_decay s.dt⟩
  · exact ⟨_, exec_setDelayTimer s x, rfl, rfl, rfl, fun _ _ => rfl, rfl, ⟨rfl, rfl⟩, fun _ => rfl, rfl, rfl, rfl⟩
  · exact ⟨_, step_of_fetchesInstr hi (exec_setDelayTimer s x), toNat_decay (s.readV x)⟩
  · exact ⟨_, exec_setSoundTimer s x, rfl, rfl, rfl, fun _ _ => rfl, rfl, ⟨rfl, rfl⟩, fun _ => rfl, rfl, rfl, rfl⟩
  · exact ⟨_, step_of_fetchesInstr hi (exec_setSoundTimer s x), toNat_decay (s.readV x)⟩

end Sys2Proof.Machine
end

section
/-! PROOFS. When an instruction or a step faults and with what (60_exceptions.md R240 to R245, R252), and that this depends on
few parts of the state (R248). -/

namespace Sys2Proof.Machine

variable {s t : State} {i : Instr} {f : Fault}

/-! ## The fault of each instruction -/

theorem exec_call_eq_fault {addr : BitVec 12} :
    exec (.call addr) s = .fault f ↔ s.sp.val = 16 ∧ f = .stackOverflow s.pc := by
  refine ⟨execCall_fault, ?_⟩
  rintro ⟨hfull, rfl⟩
  exact exec_call_of_full addr hfull

theorem exec_ret_eq_fault : exec .ret s = .fault f ↔ s.sp.val = 0 ∧ f = .stackUnderflow s.pc := by
  refine ⟨execRet_fault, ?_⟩
  rintro ⟨hempty, rfl⟩
  exact exec_ret_of_empty hempty

theorem exec_skipIfKeyPressed_eq_fault {x : RegIx} :
    exec (.skipIfKeyPressed x) s = .fault f ↔ (s.readV x).toNat > 15 ∧ f = .keyIndexOutOfRange (s.readV x) := by
  refine ⟨execSkipIfKeyPressed_fault, ?_⟩
  rintro ⟨hkey, rfl⟩
  exact exec_skipIfKeyPressed_of_noKey hkey

theorem exec_skipIfKeyNotPressed_eq_fault {x : RegIx} :
    exec (.skipIfKeyNotPressed x) s = .fault f ↔ (s.readV x).toNat > 15 ∧ f = .keyIndexOutOfRange (s.readV x) := by
  refine ⟨execSkipIfKeyNotPressed_fault, ?_⟩
  rintro ⟨hkey, rfl⟩
  exact exec_skipIfKeyNotPressed_of_noKey hkey

/-- A guarded range faults where it holds an address and its last one lies above 4095 (R242). -/
theorem guardRange_eq_fault_iff_last {base count : Nat} :
    guardRange base count t = .fault f ↔
      count ≥ 1 ∧ base + count - 1 > 4095 ∧ f = .outOfBounds (max base 4096) := by
  have hbounds : count ≠ 0 ∧ base + count > 4096 ↔ count ≥ 1 ∧ base + count - 1 > 4095 := by omega
  rw [guardRange_eq_fault, ← and_assoc, hbounds, and_assoc]

theorem exec_draw_eq_fault {x y : RegIx} {n : BitVec 4} : exec (.draw x y n) s = .fault f ↔
    n.toNat ≥ 1 ∧ s.base + n.toNat - 1 > 4095 ∧ f = .outOfBounds (max s.base 4096) :=
  guardRange_eq_fault_iff_last

theorem guardRange_succ_eq_fault {base count : Nat} :
    guardRange base (count + 1) t = .fault f ↔ base + count > 4095 ∧ f = .outOfBounds (max base 4096) := by
  rw [guardRange_eq_fault_iff_last]
  exact and_iff_right (Nat.le_add_left 1 count)

theorem exec_storeBcd_eq_fault {x : RegIx} :
    exec (.storeBcd x) s = .fault f ↔ s.base + 2 > 4095 ∧ f = .outOfBounds (max s.base 4096) :=
  guardRange_succ_eq_fault

theorem exec_registerDump_eq_fault {x : RegIx} :
    exec (.registerDump x) s = .fault f ↔ s.base + x.val > 4095 ∧ f = .outOfBounds (max s.base 4096) :=
  guardRange_succ_eq_fault

theorem exec_registerLoad_eq_fault {x : RegIx} :
    exec (.registerLoad x) s = .fault f ↔ s.base + x.val > 4095 ∧ f = .outOfBounds (max s.base 4096) :=
  guardRange_succ_eq_fault

theorem exec_waitForKey_ne_fault {x : RegIx} : exec (.waitForKey x) s ≠ .fault f := by
  intro h
  simp only [exec, execWaitForKey] at h
  split at h <;> cases h

/-- Settles O11: the fetch faults by `pc` alone, and of the instructions eight have a fault of their own. -/
theorem atMostOneFaultApplies : Obligations.AtMostOneFaultApplies := by
  refine ⟨fun s t hp hpc => ?_, fun i s f => ?_⟩
  · have hs := step_of_unfetchable (s := s) (by omega)
    have ht := step_of_unfetchable (s := t) (by rw [← hpc]; omega)
    exact ⟨by rw [hs, ht, hpc], hs⟩
  · cases i with
    | call addr => exact exec_call_eq_fault
    | ret => exact exec_ret_eq_fault
    | draw x y n => exact exec_draw_eq_fault
    | storeBcd x => exact exec_storeBcd_eq_fault
    | registerDump x => exact exec_registerDump_eq_fault
    | registerLoad x => exact exec_registerLoad_eq_fault
    | skipIfKeyPressed x => exact exec_skipIfKeyPressed_eq_fault
    | skipIfKeyNotPressed x => exact exec_skipIfKeyNotPressed_eq_fault
    | waitForKey x => exact iff_false_intro exec_waitForKey_ne_fault
    | clearDisplay | systemCall | unassigned | jump | jumpWithOffset | skipIfEqualImmediate | skipIfNotEqualImmediate
    | skipIfRegistersEqual | skipIfRegistersNotEqual | loadImmediate | addImmediate | registerMove | registerOr
    | registerAnd | registerXor | registerAdd | registerSubtract | registerSubtractReverse | shiftRight | shiftLeft
    | loadIndex | addToIndex | loadGlyphAddress | randomAnd | readDelayTimer | setDelayTimer | setSoundTimer =>
      exact iff_false_intro nofun

/-! ## The causes of R240 -/

theorem FetchesInstr.step_fault (hi : FetchesInstr s i) (h : exec i s = .fault f) : step s = .fault f := by
  obtain ⟨w, hw, rfl⟩ := hi
  rw [step_of_fetches hw, mapNext_eq_fault, h]

/-- Row by row: the fetch fault, or the fault of the fetched instruction. -/
theorem FaultCause.step_fault (h : FaultCause s f) : step s = .fault f := by
  cases h with
  | fetch hp => exact (stepRunsTheFetchedInstruction s).1 hp
  | draw hi hn hrange => exact hi.step_fault (exec_draw_eq_fault.2 ⟨hn, hrange, rfl⟩)
  | storeBcd hi hrange => exact hi.step_fault (exec_storeBcd_eq_fault.2 ⟨hrange, rfl⟩)
  | registerDump hi hrange => exact hi.step_fault (exec_registerDump_eq_fault.2 ⟨hrange, rfl⟩)
  | registerLoad hi hrange => exact hi.step_fault (exec_registerLoad_eq_fault.2 ⟨hrange, rfl⟩)
  | call hi hfull => exact hi.step_fault (exec_call_of_full _ hfull)
  | ret hi hempty => exact hi.step_fault (exec_ret_of_empty hempty)
  | keyPressed hi hkey => exact hi.step_fault (exec_skipIfKeyPressed_of_noKey hkey)
  | keyNotPressed hi hkey => exact hi.step_fault (exec_skipIfKeyNotPressed_of_noKey hkey)

theorem step_eq_fault_iff : step s = .fault f ↔ FaultCause s f := ⟨faultCause_of_step, FaultCause.step_fault⟩

/-- Settles O10: a step's fault is a row of R240 and each row faults the step; the codes are by definition. -/
theorem faultsAreExactlyTheListedCauses : Obligations.FaultsAreExactlyTheListedCauses :=
  ⟨fun _ _ => step_eq_fault_iff, fun _ => ⟨rfl, rfl⟩, fun _ => ⟨rfl, rfl⟩, fun _ => ⟨rfl, rfl⟩, fun _ => ⟨rfl, rfl⟩, rfl⟩

/-! ## What a fault depends on (R248) -/

theorem FetchesInstr.congr (hpc : s.pc = t.pc) (hhigh : s.mem.read s.pc.toNat = t.mem.read s.pc.toNat)
    (hlow : s.mem.read (s.pc.toNat + 1) = t.mem.read (s.pc.toNat + 1)) (h : FetchesInstr s i) : FetchesInstr t i := by
  obtain ⟨w, ⟨hp, hw⟩, hdecode⟩ := h
  rw [hhigh, hlow, hpc] at hw
  exact ⟨w, ⟨hpc ▸ hp, hw⟩, hdecode⟩

/-- A row of R240 speaks of `pc`, the fetched instruction, `I`, `SP` and the registers alone. -/
theorem FaultCause.congr (hpc : s.pc = t.pc) (hindex : s.index = t.index) (hsp : s.sp = t.sp) (hv : s.v = t.v)
    (hfetch : ∀ {i}, FetchesInstr s i → FetchesInstr t i) (h : FaultCause s f) : FaultCause t f := by
  have hreg (x : RegIx) : s.readV x = t.readV x := congrArg (·[x]) hv
  cases h with
  | fetch hp => exact hpc ▸ .fetch (hpc ▸ hp)
  | draw hi hn hrange => exact hindex ▸ .draw (hfetch hi) hn (hindex ▸ hrange)
  | storeBcd hi hrange => exact hindex ▸ .storeBcd (hfetch hi) (hindex ▸ hrange)
  | registerDump hi hrange => exact hindex ▸ .registerDump (hfetch hi) (hindex ▸ hrange)
  | registerLoad hi hrange => exact hindex ▸ .registerLoad (hfetch hi) (hindex ▸ hrange)
  | call hi hfull => exact hpc ▸ .call (hfetch hi) (hsp ▸ hfull)
  | ret hi hempty => exact hpc ▸ .ret (hfetch hi) (hsp ▸ hempty)
  | keyPressed hi hkey => exact hreg _ ▸ .keyPressed (hfetch hi) (hreg _ ▸ hkey)
  | keyNotPressed hi hkey => exact hreg _ ▸ .keyNotPressed (hfetch hi) (hreg _ ▸ hkey)

/-- Settles O14: the states have the same causes of a fault, since they fetch the same word. -/
theorem faultsDependOnFewParts : Obligations.FaultsDependOnFewParts := by
  intro s t f hpc hindex hsp hv hhigh hlow h
  have hfetch {i : Instr} (hi : FetchesInstr s i) : FetchesInstr t i := hi.congr hpc hhigh hlow
  exact ((faultCause_of_step h).congr hpc hindex hsp hv hfetch).step_fault

end Sys2Proof.Machine
end

section
/-! PROOFS. The host's `reset()` and `load()`: what each writes and leaves alone, `reset()` twice, and `load()` as all
or nothing (70_reset_and_hazards.md R281, R283, R284, R287). -/

namespace Sys2Proof.Machine

/-! ## Writing the same bytes twice -/

/-- Writing the same bytes to the same place again changes no read, so a canonical memory not at all. -/
theorem Memory.writeBytes_writeBytes_same {m : Memory} (h : m.wf = true) {a : Nat} {us : List Byte}
    (hus : a + us.length ≤ 4096) : (m.writeBytes a us).writeBytes a us = m.writeBytes a us := by
  have hwf : (m.writeBytes a us).wf = true := Memory.wf_writeBytes us h hus
  refine Memory.ext_read (Memory.wf_writeBytes us hwf hus) hwf fun b => ?_
  by_cases hb : a ≤ b ∧ b < a + us.length
  · simp only [Memory.read_writeBytes, dif_pos hb]
  · exact Memory.read_writeBytes_outside us _ hb

/-! ## `reset()` -/

/-- The glyph table stands where R281 puts it: glyph `d` is the five bytes from `5 * d` on. -/
theorem read_hostReset_glyph (g : GlyphTable) (s : State) (d : Fin 16) (k : Fin 5) :
    (hostReset g s).mem.read (5 * d.val + k.val) = g[d][k] := by
  obtain ⟨hk, hbyte⟩ := List.getElem?_eq_some_iff.1 (GlyphTable.getElem?_bytes g d k)
  have hread := Memory.read_writeBytes_getElem s.mem 0 hk
  rwa [Nat.zero_add, hbyte] at hread

theorem read_hostReset_of_le (g : GlyphTable) (s : State) {a : Nat} (ha : 80 ≤ a) :
    (hostReset g s).mem.read a = s.mem.read a :=
  Memory.read_writeBytes_outside _ _ (by rw [GlyphTable.length_bytes]; omega)

/-- Settles O48: memory takes the glyph table in its first 80 bytes; every other field is set to a constant or kept. -/
theorem resetWritesAndLeaves : Obligations.ResetWritesAndLeaves := by
  refine fun g s => ⟨fun j => ?_, rfl, rfl, fun j => ?_, rfl, rfl, rfl, read_hostReset_glyph g s,
    fun a ha => read_hostReset_of_le g s ha, rfl, rfl⟩
  · simp [hostReset, State.readV]
  · simp [hostReset]

/-- A second `reset()` sets every field but memory to what it is, and there it writes the glyph table once more. -/
theorem hostReset_hostReset (g : GlyphTable) {s : State} (hs : s.mem.wf = true) :
    hostReset g (hostReset g s) = hostReset g s := by
  have hmem : (hostReset g s).mem.writeBytes 0 (GlyphTable.bytes g) = (hostReset g s).mem :=
    Memory.writeBytes_writeBytes_same hs (by rw [GlyphTable.length_bytes]; decide)
  exact congrArg (hostReset g s).setMem hmem

/-- Settles O49: the second `reset()` writes the same bytes again, and power-on is itself a `reset()`. -/
theorem resetIsIdempotent : Obligations.ResetIsIdempotent :=
  ⟨fun g _ hs => hostReset_hostReset g hs, fun g _ _ _ hm => hostReset_hostReset g hm⟩

/-! ## `load()` -/

theorem perform_load_of_le (g : GlyphTable) (s : State) {bytes : List Byte} (h : bytes.length ≤ 3584) :
    perform g (.load bytes) s = (s.setMem (s.mem.writeBytes 0x200 bytes), .ok) := by
  have hload : hostLoad bytes s = .ok (s.setMem (s.mem.writeBytes 0x200 bytes)) := if_neg (Nat.not_lt.2 h)
  simp only [perform, hload]

theorem perform_load_of_gt (g : GlyphTable) (s : State) {bytes : List Byte} (h : bytes.length > 3584) :
    perform g (.load bytes) s = (s, .romTooLarge) := by
  have hload : hostLoad bytes s = .romTooLarge := if_pos h
  simp only [perform, hload]

/-- Settles O50: a sequence that fits is one write of memory from `0x200` on, and one that does not leaves the state. -/
theorem loadIsAllOrNothing : Obligations.LoadIsAllOrNothing := by
  refine fun g s bytes => ⟨fun hfits => ⟨_, perform_load_of_le g s hfits, fun k => ?_, fun a ha => ?_, rfl,
    fun _ _ => rfl, rfl, ⟨rfl, rfl⟩, ⟨rfl, rfl⟩, rfl, ⟨rfl, rfl⟩⟩, perform_load_of_gt g s⟩
  · exact Memory.read_writeBytes_getElem s.mem 0x200 k.isLt
  · exact Memory.read_writeBytes_outside bytes s.mem ha

end Sys2Proof.Machine
end

section
/-! PROOFS. Random-and (43_register_alu.md R183), for whatever byte the draw gives. -/

namespace Sys2Proof.Machine

variable (rnd : Byte) (x : RegIx) (kk : Byte) (s : State)

theorem exec_randomAnd :
    exec (.randomAnd x kk) s = .next (randomAndWith (Config.freeByte s.draws) x kk s).nextDraw := rfl

theorem readV_randomAndWith : (randomAndWith rnd x kk s).readV x = rnd &&& kk := s.readV_writeV_same x (rnd &&& kk)

theorem onlyRegisters_randomAndWith : OnlyRegisters [x] s (randomAndWith rnd x kk s) :=
  s.onlyRegisters_writeV x (rnd &&& kk)

theorem toNat_readV_randomAndWith_le : ((randomAndWith rnd x kk s).readV x).toNat ≤ kk.toNat := by
  rw [readV_randomAndWith, BitVec.toNat_and]
  exact Nat.and_le_right

theorem getLsbD_readV_randomAndWith (k : Nat) :
    ((randomAndWith rnd x kk s).readV x).getLsbD k = (rnd.getLsbD k && kk.getLsbD k) := by
  rw [readV_randomAndWith, BitVec.getLsbD_and]

/-- Settles O39: what holds of the meaning with any byte holds with the free one, and `nextDraw` raises the counter alone. -/
theorem randomAndMasksTheFreeByte : Obligations.RandomAndMasksTheFreeByte := by
  refine fun s x kk => ⟨decode_ofNat rfl (toNat_formatXK 0xC x kk), ⟨_, exec_randomAnd x kk s, ?_⟩,
    fun rnd => ⟨readV_randomAndWith rnd x kk s, toNat_readV_randomAndWith_le rnd x kk s⟩⟩
  obtain ⟨hregs, hindex, hstack, htimers, hmem, hfb, hkeys, hdraws⟩ :=
    onlyRegisters_randomAndWith (Config.freeByte s.draws) x kk s
  exact ⟨fun k _ => getLsbD_readV_randomAndWith _ x kk s k, toNat_readV_randomAndWith_le _ x kk s, rfl, hregs, hindex,
    hstack, htimers, hmem, hfb, hkeys, congrArg (· + 1) hdraws⟩

end Sys2Proof.Machine
end
